-- ==== Sys2Proof/Word.lean ====
section
/-! DEFINITION. The word and byte types of the core (spec/00_scope.md R7, R8) and the block (R9). -/

namespace Sys2Proof

/-- R7: a word is an unsigned 32-bit integer, arithmetic modulo 2^32. -/
abbrev Word := BitVec 32

/-- R8: a byte is an unsigned 8-bit integer. -/
abbrev Byte := BitVec 8

/-- R9: one 512-bit block, as 16 words. -/
abbrev Block := Vector Word 16

end Sys2Proof
end

