-- ==== Sys2Proof/Config.lean ====
section
/-! DEFINITION. What the spec leaves to the platform or leaves unspecified, and the one size parameter of the stream. -/

namespace Sys2Proof

/-- R13: the maximum stream length in bytes, `MAXLEN = 2^61 − 1`. -/
def Config.maxLen : Nat := 2 ^ 61 - 1

/-- R16: the open parameter behind `CORE_BASE`, which is 64-byte aligned: its number of 64-byte units.
No statement rests on its value (log 9). -/
opaque Config.coreBaseUnits : Nat

/-- R16: `CORE_BASE`, the address of the window, with `CORE_BASE mod 64 = 0`. -/
def Config.coreBase : Nat := 64 * Config.coreBaseUnits

/-- R24, R234, spec/93 X1: `draw()`, an unspecified 32-bit value. Every draw is this function at the next index
(`State.draws`); it has no body, so nothing can be proved about a drawn value (log 5). -/
opaque Config.draw : Nat → Word

end Sys2Proof
end

