-- ==== Sys2Proof/Syntax.lean ====
section
/-! DEFINITION. Host operations as data: bus transactions, the six commands, one constructor of Instr for each row of
spec/opcode_table.json, and the host script statements of spec/30_encoding.md R111, R112. -/

namespace Sys2Proof

/-- R76, R100: a host transaction moves exactly 32 bits to or from one of the 16 slots. Only a write carries data. -/
inductive Txn where
  | read (idx : BitVec 4)
  | write (idx : BitVec 4) (wdata : Word)
deriving DecidableEq, Repr

/-- R106: the six defined command words, by name. -/
inductive Command where
  | init
  | final
  | hmacInit
  | hmacKeyEnd
  | hmacFinal
  | abort
deriving DecidableEq, Repr

/-- One constructor per row of the opcode table: the 24 BUS rows of R105 and the 6 CMD rows of R106.
A CMD row is the WR_CMD transaction whose data is that command's word, so `wrCmd` is well formed for the other words
only (log 10). A `lo` operand is the part of `idx` that the row's mask leaves free. -/
inductive Instr where
  | rdId
  | rdCmd
  | rdStatus
  | rdDinWord
  | rdDinByte
  | rdH0
  | rdH1
  | rdH2
  | rdH3
  | rdH4
  | rdRsvdA (lo : BitVec 1)
  | rdRsvdB (lo : BitVec 2)
  | wrId (wdata : Word)
  | wrCmd (wdata : Word)
  | wrStatus (wdata : Word)
  | wrDinWord (wdata : Word)
  | wrDinByte (wdata : Word)
  | wrH0 (wdata : Word)
  | wrH1 (wdata : Word)
  | wrH2 (wdata : Word)
  | wrH3 (wdata : Word)
  | wrH4 (wdata : Word)
  | wrRsvdA (lo : BitVec 1) (wdata : Word)
  | wrRsvdB (lo : BitVec 2) (wdata : Word)
  | init
  | final
  | hmacInit
  | hmacKeyEnd
  | hmacFinal
  | abort
deriving DecidableEq, Repr

/-- R111: the slot names of a host script. -/
inductive Reg where
  | id
  | cmd
  | status
  | dinWord
  | dinByte
  | h0
  | h1
  | h2
  | h3
  | h4
  | rsv10
  | rsv11
  | rsv12
  | rsv13
  | rsv14
  | rsv15
deriving DecidableEq, Repr

/-- R111, R112: the base statements and the pseudo-operations of a host script. `wait` repeats its STATUS read one or
more times, and how often is not specified: `more` is the number of reads after the first (log 13). -/
inductive Stmt where
  | rd (reg : Reg)
  | wr (reg : Reg) (imm : Word)
  | cmd (c : Command)
  | pushW (imm : Word)
  | pushB (imm : Byte)
  | wait (more : Nat)
  | rdh
deriving DecidableEq, Repr

end Sys2Proof
end

