-- ==== Sys2Proof/Machine/State.lean ====
section
/-! DEFINITION. The state of the core (spec/10_state.md), what is still to happen to it, and its reset values (R59). -/

namespace Sys2Proof.Machine

/-- R30: the hash state H0 to H4. -/
structure Hash where
  h0 : Word
  h1 : Word
  h2 : Word
  h3 : Word
  h4 : Word
deriving DecidableEq, Repr

/-- R31: the working registers A to E. -/
structure Work where
  a : Word
  b : Word
  c : Word
  d : Word
  e : Word
deriving DecidableEq, Repr

/-- The internal registers of the compression engine: working registers (R31), message schedule W[0..79] (R55) and round
counter t, 0 to 80 (R34). -/
structure Engine where
  work : Work
  w : Vector Word 80
  t : Fin 81
deriving DecidableEq, Repr

/-- R33: the session mode. -/
inductive Mode where
  | none
  | hash
  | hmac
deriving DecidableEq, Repr

/-- R33: the session phase. -/
inductive Phase where
  | none
  | key
  | msg
  | result
deriving DecidableEq, Repr

/-- R54: the job register. A BLOCK job holds its 16 latched words. -/
inductive Job where
  | none
  | block (blk : Block)
  | final
  | keyEnd
  | hFinal
deriving DecidableEq, Repr

/-- R250: the error codes; `none` is code 0. -/
inductive ErrCode where
  | none
  | busy
  | badCmd
  | seq
  | length
deriving DecidableEq, Repr

/-- Every state element of spec/10_state.md: H (R30), the engine's registers (R31, R34, R55), mode and phase (R33), job (R54),
err (R56), blockbuf and fill (R51), msglen (R52), K, keylen and keyhash (R53). -/
structure CoreState where
  h : Hash
  eng : Engine
  mode : Mode
  phase : Phase
  job : Job
  err : ErrCode
  blockbuf : Vector Byte 64
  fill : Fin 64
  msglen : Nat
  key : Vector Byte 64
  keylen : Fin 65
  keyhash : Bool
deriving DecidableEq, Repr

/-- R25, R81, R290: one step of a run. -/
inductive Event where
  /-- The HOST issues a transaction. -/
  | host (txn : Txn)
  /-- The ENGINE takes its completion step, if a job is in flight. -/
  | engine
  /-- The reset input. -/
  | reset
deriving DecidableEq, Repr

/-- The core, the value the last read returned to the HOST, the index of the next free value, and the steps still to
come. The last three are the model's own (log 1, 5, 8). -/
structure State where
  core : CoreState
  rdata : Word
  draws : Nat
  events : List Event
deriving DecidableEq, Repr

/-- No constructor: nothing stops this core. An error is not a trap (R263), every transaction completes (R76), and an error
is the sticky register `err`, which is part of the state. -/
inductive Fault
deriving DecidableEq, Repr

/-- Why a step has no meaning in the model. -/
inductive Refusal where
  /-- Only an arm of `exec` for an instruction with no meaning yet would raise this; no arm does. Safe. -/
  | notModelled (mnemonic : String)
deriving DecidableEq, Repr

/-- What the checks of R260 and R261 decide about a write. -/
inductive Verdict where
  /-- The operation is executed. -/
  | accept
  /-- The operation ends in `raise Error`. -/
  | reject (code : ErrCode)
  /-- The operation is ignored (R256). -/
  | ignore
deriving DecidableEq, Repr

/-- R59: A to E, W and t are unspecified at reset and never read before they are written; spec/93 X2 lets a model fix them
at 0. DESIGN CHOICE (log 6), unsafe. -/
def Engine.reset : Engine :=
  { work := ⟨0, 0, 0, 0, 0⟩, w := Vector.replicate 80 0, t := 0 }

/-- R59: the reset value of every element. The contents of `eng` and `blockbuf` are unspecified there and 0 here
(log 6). -/
def CoreState.reset : CoreState :=
  { h := ⟨0, 0, 0, 0, 0⟩
    eng := Engine.reset
    mode := .none
    phase := .none
    job := .none
    err := .none
    blockbuf := Vector.replicate 64 0
    fill := 0
    msglen := 0
    key := Vector.replicate 64 0
    keylen := 0
    keyhash := false }

/-- The machine right after reset: R59 for the core, no value read yet, nothing placed to happen. -/
def State.reset : State :=
  { core := CoreState.reset, rdata := 0, draws := 0, events := [] }

end Sys2Proof.Machine
end

