-- ==== Sys2Proof/Machine/Flags.lean ====
section
/-! DEFINITION. The constant register ID and every field of STATUS (spec/10_state.md R36, R38 to R46). -/

namespace Sys2Proof.Machine

/-- R36: what ID always reads, "SHA1" in ASCII. -/
def idValue : Word := 0x53484131

/-- R33, R41: the code of a mode. -/
def Mode.code : Mode → Word
  | .none => 0
  | .hash => 1
  | .hmac => 2

/-- R33, R42: the code of a phase. -/
def Phase.code : Phase → Word
  | .none => 0
  | .key => 1
  | .msg => 2
  | .result => 3

/-- R250: the code of an error. -/
def ErrCode.code : ErrCode → Word
  | .none => 0
  | .busy => 1
  | .badCmd => 2
  | .seq => 3
  | .length => 4

/-- R38: a one-bit field. -/
def flag (b : Bool) : Word := if b then 1 else 0

/-- R39: BUSY is 1 exactly while a job is in flight. -/
def CoreState.busy (c : CoreState) : Bool := c.job ≠ .none

/-- R40: DONE is 1 exactly in the RESULT phase. -/
def CoreState.done (c : CoreState) : Bool := c.phase = .result

/-- R38: STATUS, computed from the state. -/
def status (c : CoreState) : Word :=
  flag c.busy ||| (flag c.done <<< 1) ||| (c.mode.code <<< 2) ||| (c.phase.code <<< 4) ||| (flag c.keyhash <<< 6)
    ||| (c.err.code <<< 8) ||| (BitVec.ofNat 32 c.fill.val <<< 16)

end Sys2Proof.Machine
end

