-- ==== Sys2Proof/Decode.lean ====
section
/-! DEFINITION. The decoder of host transactions and command words (spec/30_encoding.md R100 to R110), the encoder written from
the same maps, and the numbering of spec/opcode_table.json. -/

namespace Sys2Proof

/-! ## Transactions and their 5-bit code (R100) -/

/-- R100: bits 3:0 of the selector, the slot. -/
def Txn.idx : Txn → BitVec 4
  | .read idx => idx
  | .write idx _ => idx

/-- R100: the selector `T = we × 16 + idx`. -/
def Txn.code : Txn → BitVec 5
  | .read idx => 0#1 ++ idx
  | .write idx _ => 1#1 ++ idx

/-- The transaction with selector `t` that carries `wdata` if it is a write (R100: `we` is bit 4, `idx` bits 3:0). -/
def Txn.ofCode (t : BitVec 5) (wdata : Word) : Txn :=
  if t.getLsbD 4 then .write (t.extractLsb' 0 4) wdata else .read (t.extractLsb' 0 4)

/-! ## Command words (R101, R106, R107) -/

/-- R106: the word of each command. -/
def Command.word : Command → Word
  | .init => 0x00000001
  | .final => 0x00000002
  | .hmacInit => 0x00000003
  | .hmacKeyEnd => 0x00000004
  | .hmacFinal => 0x00000005
  | .abort => 0x0000000F

/-- R101, R106, R107: all 32 bits are compared; any word but the six is reserved. -/
def decodeCmd (w : Word) : Option Command :=
  [Command.init, .final, .hmacInit, .hmacKeyEnd, .hmacFinal, .abort].find? fun c => c.word == w

/-- The CMD row of the opcode table that a command is. -/
def Command.instr : Command → Instr
  | .init => .init
  | .final => .final
  | .hmacInit => .hmacInit
  | .hmacKeyEnd => .hmacKeyEnd
  | .hmacFinal => .hmacFinal
  | .abort => .abort

/-! ## Decoding (R105) -/

/-- R105: the reads, T = 0x00 to 0x0F. Slots 10 and 11 are RD_RSVD_A, slots 12 to 15 (bit 2 set) RD_RSVD_B. -/
def decodeRead (idx : BitVec 4) : Instr :=
  match idx.toNat with
  | 0 => .rdId
  | 1 => .rdCmd
  | 2 => .rdStatus
  | 3 => .rdDinWord
  | 4 => .rdDinByte
  | 5 => .rdH0
  | 6 => .rdH1
  | 7 => .rdH2
  | 8 => .rdH3
  | 9 => .rdH4
  | _ => if idx.getLsbD 2 then .rdRsvdB (idx.extractLsb' 0 2) else .rdRsvdA (idx.extractLsb' 0 1)

/-- R237: a write to CMD is the command its word names, and WR_CMD of a reserved word otherwise. -/
def decodeCmdWrite (wdata : Word) : Instr :=
  match decodeCmd wdata with
  | some c => c.instr
  | none => .wrCmd wdata

/-- R105: the writes, T = 0x10 to 0x1F. Slots 10 and 11 are WR_RSVD_A, slots 12 to 15 (bit 2 set) WR_RSVD_B. -/
def decodeWrite (idx : BitVec 4) (wdata : Word) : Instr :=
  match idx.toNat with
  | 0 => .wrId wdata
  | 1 => decodeCmdWrite wdata
  | 2 => .wrStatus wdata
  | 3 => .wrDinWord wdata
  | 4 => .wrDinByte wdata
  | 5 => .wrH0 wdata
  | 6 => .wrH1 wdata
  | 7 => .wrH2 wdata
  | 8 => .wrH3 wdata
  | 9 => .wrH4 wdata
  | _ => if idx.getLsbD 2 then .wrRsvdB (idx.extractLsb' 0 2) wdata else .wrRsvdA (idx.extractLsb' 0 1) wdata

/-- The decoder, total: every transaction is exactly one instruction (R100), so there is no undecodable transaction.
It depends on no mode (R110). -/
def decode : Txn → Instr
  | .read idx => decodeRead idx
  | .write idx wdata => decodeWrite idx wdata

/-! ## Encoding -/

/-- The transaction of each instruction, from R105 and R106. -/
def encode : Instr → Txn
  | .rdId => .read 0x0
  | .rdCmd => .read 0x1
  | .rdStatus => .read 0x2
  | .rdDinWord => .read 0x3
  | .rdDinByte => .read 0x4
  | .rdH0 => .read 0x5
  | .rdH1 => .read 0x6
  | .rdH2 => .read 0x7
  | .rdH3 => .read 0x8
  | .rdH4 => .read 0x9
  | .rdRsvdA lo => .read (0b101#3 ++ lo)
  | .rdRsvdB lo => .read (0b11#2 ++ lo)
  | .wrId wdata => .write 0x0 wdata
  | .wrCmd wdata => .write 0x1 wdata
  | .wrStatus wdata => .write 0x2 wdata
  | .wrDinWord wdata => .write 0x3 wdata
  | .wrDinByte wdata => .write 0x4 wdata
  | .wrH0 wdata => .write 0x5 wdata
  | .wrH1 wdata => .write 0x6 wdata
  | .wrH2 wdata => .write 0x7 wdata
  | .wrH3 wdata => .write 0x8 wdata
  | .wrH4 wdata => .write 0x9 wdata
  | .wrRsvdA lo wdata => .write (0b101#3 ++ lo) wdata
  | .wrRsvdB lo wdata => .write (0b11#2 ++ lo) wdata
  | .init => .write 0x1 Command.init.word
  | .final => .write 0x1 Command.final.word
  | .hmacInit => .write 0x1 Command.hmacInit.word
  | .hmacKeyEnd => .write 0x1 Command.hmacKeyEnd.word
  | .hmacFinal => .write 0x1 Command.hmacFinal.word
  | .abort => .write 0x1 Command.abort.word

/-! ## The BUS rows of the opcode table -/

/-- A BUS row of spec/opcode_table.json: a selector `t` is in the row when `t &&& mask = pattern`. -/
structure BusRow where
  mnemonic : String
  pattern : BitVec 5
  mask : BitVec 5
deriving DecidableEq, Repr

/-- R100: whether a selector matches a row. -/
def BusRow.covers (r : BusRow) (t : BitVec 5) : Bool := t &&& r.mask == r.pattern

/-- R105: the 24 BUS rows. -/
def busRows : List BusRow :=
  [⟨"RD_ID", 0x00, 0x1F⟩, ⟨"RD_CMD", 0x01, 0x1F⟩, ⟨"RD_STATUS", 0x02, 0x1F⟩, ⟨"RD_DIN_WORD", 0x03, 0x1F⟩,
   ⟨"RD_DIN_BYTE", 0x04, 0x1F⟩, ⟨"RD_H0", 0x05, 0x1F⟩, ⟨"RD_H1", 0x06, 0x1F⟩, ⟨"RD_H2", 0x07, 0x1F⟩,
   ⟨"RD_H3", 0x08, 0x1F⟩, ⟨"RD_H4", 0x09, 0x1F⟩, ⟨"RD_RSVD_A", 0x0A, 0x1E⟩, ⟨"RD_RSVD_B", 0x0C, 0x1C⟩] ++
  [⟨"WR_ID", 0x10, 0x1F⟩, ⟨"WR_CMD", 0x11, 0x1F⟩, ⟨"WR_STATUS", 0x12, 0x1F⟩, ⟨"WR_DIN_WORD", 0x13, 0x1F⟩,
   ⟨"WR_DIN_BYTE", 0x14, 0x1F⟩, ⟨"WR_H0", 0x15, 0x1F⟩, ⟨"WR_H1", 0x16, 0x1F⟩, ⟨"WR_H2", 0x17, 0x1F⟩,
   ⟨"WR_H3", 0x18, 0x1F⟩, ⟨"WR_H4", 0x19, 0x1F⟩, ⟨"WR_RSVD_A", 0x1A, 0x1E⟩, ⟨"WR_RSVD_B", 0x1C, 0x1C⟩]

/-- The mnemonic of the BUS row an instruction's transaction lies in: its own row, or WR_CMD for the six CMD rows. -/
def busMnemonic : Instr → String
  | .rdId => "RD_ID"
  | .rdCmd => "RD_CMD"
  | .rdStatus => "RD_STATUS"
  | .rdDinWord => "RD_DIN_WORD"
  | .rdDinByte => "RD_DIN_BYTE"
  | .rdH0 => "RD_H0"
  | .rdH1 => "RD_H1"
  | .rdH2 => "RD_H2"
  | .rdH3 => "RD_H3"
  | .rdH4 => "RD_H4"
  | .rdRsvdA _ => "RD_RSVD_A"
  | .rdRsvdB _ => "RD_RSVD_B"
  | .wrId _ => "WR_ID"
  | .wrCmd _ => "WR_CMD"
  | .wrStatus _ => "WR_STATUS"
  | .wrDinWord _ => "WR_DIN_WORD"
  | .wrDinByte _ => "WR_DIN_BYTE"
  | .wrH0 _ => "WR_H0"
  | .wrH1 _ => "WR_H1"
  | .wrH2 _ => "WR_H2"
  | .wrH3 _ => "WR_H3"
  | .wrH4 _ => "WR_H4"
  | .wrRsvdA _ _ => "WR_RSVD_A"
  | .wrRsvdB _ _ => "WR_RSVD_B"
  | .init => "WR_CMD"
  | .final => "WR_CMD"
  | .hmacInit => "WR_CMD"
  | .hmacKeyEnd => "WR_CMD"
  | .hmacFinal => "WR_CMD"
  | .abort => "WR_CMD"

/-! ## The table's numbering (log 11) -/

/-- Why a numbered word is not an instruction. -/
inductive DecodeError where
  /-- The value does not fit in the five bits of a selector. -/
  | notASelector
  /-- The width is that of no row: a BUS row has 5 bits (one byte), a CMD row 32. -/
  | notAWidth
deriving DecidableEq, Repr

/-- The transaction that a word of the table's numbering is. A BUS row's 5 bits (in whole bytes, 8) are the selector `T`,
with `wdata` zero; a CMD row's 32 bits are the `wdata` of a WR_CMD (R101). -/
def tableTxn (nbits w : Nat) : Except DecodeError Txn :=
  if nbits = 32 then .ok (.write 0x1 (BitVec.ofNat 32 w))
  else if 5 ≤ nbits ∧ nbits ≤ 8 then
    if w < 32 then .ok (Txn.ofCode (BitVec.ofNat 5 w) 0) else .error .notASelector
  else .error .notAWidth

/-- The instruction that the decoder reads from a word of spec/opcode_table.json's numbering. -/
def decodeTableWord (nbits w : Nat) : Option Instr :=
  match tableTxn nbits w with
  | .ok txn => some (decode txn)
  | .error _ => none

end Sys2Proof
end

