-- ==== Sys2Proof/Machine/Operands.lean ====
section
/-! DEFINITION. Operand assembly (spec/30_encoding.md R101 to R104). -/

namespace Sys2Proof.Machine

/-- R102, R104: format DINW, the four bytes in stream order, [31:24] first. -/
def dinWordBytes (wdata : Word) : List Byte :=
  [wdata.extractLsb' 24 8, wdata.extractLsb' 16 8, wdata.extractLsb' 8 8, wdata.extractLsb' 0 8]

/-- R103, R104: format DINB, the one byte [7:0]; bits 31:8 are ignored. -/
def dinByteBytes (wdata : Word) : List Byte := [wdata.extractLsb' 0 8]

/-- R101: the OPCODE field of a command word. -/
def cmdOpcode (w : Word) : Byte := w.extractLsb' 0 8

/-- R101: the RSVD field of a command word. -/
def cmdRsvd (w : Word) : BitVec 24 := w.extractLsb' 8 24

end Sys2Proof.Machine
end

