-- ==== Sys2Proof/Machine/Bytes.lean ====
section
/-! DEFINITION. Byte order and serialization (spec/00_scope.md R22, R23; spec/20_memory.md R70 to R73). -/

namespace Sys2Proof.Machine

/-- R23, R71: four bytes as one word, the first in bits 31:24. -/
def packWord (b0 b1 b2 b3 : Byte) : Word := b0 ++ b1 ++ b2 ++ b3

/-- R23, R71: the 16 words of a 64-byte sequence, big-endian. (A sequence shorter than 64 bytes never comes here; its
missing bytes would read 0: log 14.) -/
def words (s : List Byte) : Block :=
  Vector.ofFn fun j : Fin 16 =>
    packWord (s.getD (4 * j.val) 0) (s.getD (4 * j.val + 1) 0) (s.getD (4 * j.val + 2) 0) (s.getD (4 * j.val + 3) 0)

/-- R23: the 4 bytes of a word, most significant first. -/
def be32 (w : Word) : List Byte :=
  [w.extractLsb' 24 8, w.extractLsb' 16 8, w.extractLsb' 8 8, w.extractLsb' 0 8]

/-- R23: the 8 bytes of a 64-bit value, most significant first. -/
def be64 (v : BitVec 64) : List Byte :=
  be32 (v.extractLsb' 32 32) ++ be32 (v.extractLsb' 0 32)

/-- R22: `c^n`, n copies of a byte. -/
def copies (c : Byte) (n : Nat) : List Byte := List.replicate n c

/-- R22: the bytewise XOR of a sequence with one byte. -/
def xorBytes (s : List Byte) (c : Byte) : List Byte := s.map (· ^^^ c)

/-- R73, R172: the 20-byte digest, H0 first, each word most significant byte first. -/
def ser (h : Hash) : List Byte :=
  be32 h.h0 ++ be32 h.h1 ++ be32 h.h2 ++ be32 h.h3 ++ be32 h.h4

end Sys2Proof.Machine
end

