-- ==== Sys2Proof/Machine/Compress.lean ====
section
/-! DEFINITION. The compression function (spec/41_compression_engine.md R130 to R142), as the spec's pure function and as the
micro-sequence of the engine's registers. -/

namespace Sys2Proof.Machine

/-- R18: the initial hash value. From general knowledge, as the spec itself marks it (log 7). -/
def iv : Hash := ⟨0x67452301, 0xEFCDAB89, 0x98BADCFE, 0x10325476, 0xC3D2E1F0⟩

/-- R21: rotation left, for 0 < s < 32. -/
def rotl (x : Word) (s : Nat) : Word := (x <<< s) ||| (x >>> (32 - s))

/-! ## Block expander (R131, R132) -/

/-- R132: one word of the schedule from the four words before it. -/
def scheduleWord (w3 w8 w14 w16 : Word) : Word := rotl (w3 ^^^ w8 ^^^ w14 ^^^ w16) 1

/-- R131: words 0 to 15 are the block; the later words are not yet written. -/
def copyBlock (blk : Block) : Vector Word 80 :=
  (blk ++ Vector.replicate 64 (0 : Word) : Vector Word (16 + 64))

/-- R132: write `W[t]` for one t from 16 to 79. -/
def expandStep (w : Vector Word 80) (t : Nat) : Vector Word 80 :=
  w.setIfInBounds t
    (scheduleWord (w.getD (t - 3) 0) (w.getD (t - 8) 0) (w.getD (t - 14) 0) (w.getD (t - 16) 0))

/-- R131, R132: EXPAND: the words after the block's own 16, up to 79, in increasing t. -/
@[irreducible] def expand (blk : Block) : Vector Word 80 :=
  (List.range' blk.toList.length (80 - blk.toList.length)).foldl expandStep (copyBlock blk)

/-! ## Round mixer (R133 to R139) -/

/-- R133: stage = t div 20; t ≥ 80 selects no stage. -/
def stage (t : Nat) : Option (Fin 4) := if h : t < 80 then some ⟨t / 20, by omega⟩ else none

/-- R134: the mixing function of rounds 0 to 19. -/
def fCh (b c d : Word) : Word := (b &&& c) ||| (~~~b &&& d)

/-- R135: the mixing function of rounds 20 to 39 and 60 to 79. -/
def fParity (b c d : Word) : Word := b ^^^ c ^^^ d

/-- R136: the mixing function of rounds 40 to 59. -/
def fMaj (b c d : Word) : Word := (b &&& c) ||| (b &&& d) ||| (c &&& d)

/-- R133: the mixing function of a stage. -/
def mix (st : Fin 4) (b c d : Word) : Word :=
  match st with
  | 0 => fCh b c d
  | 1 => fParity b c d
  | 2 => fMaj b c d
  | 3 => fParity b c d

/-- R133, R137: the additive constant of a stage. -/
def roundConst (st : Fin 4) : Word :=
  match st with
  | 0 => 0x5A827999
  | 1 => 0x6ED9EBA1
  | 2 => 0x8F1BBCDC
  | 3 => 0xCA62C1D6

/-- R138: one round in a given stage. -/
def roundIn (st : Fin 4) (wt : Word) (r : Work) : Work :=
  { a := rotl r.a 5 + mix st r.b r.c r.d + r.e + wt + roundConst st
    b := r.a
    c := rotl r.b 30
    d := r.c
    e := r.d }

/-- R138: ROUND(t); no round runs at t ≥ 80 (R133). -/
def roundAt (t : Nat) (wt : Word) (r : Work) : Work :=
  match stage t with
  | some st => roundIn st wt r
  | none => r

/-- R139: LOAD. -/
def loadWork (h : Hash) : Work := ⟨h.h0, h.h1, h.h2, h.h3, h.h4⟩

/-- R140: UPDATE, each word modulo 2^32. -/
def updateHash (h : Hash) (r : Work) : Hash :=
  ⟨h.h0 + r.a, h.h1 + r.b, h.h2 + r.c, h.h3 + r.d, h.h4 + r.e⟩

/-- R130: one round for each schedule word, t = 0 to 79, from the given working registers. -/
def rounds (w : Vector Word 80) (r : Work) : Work :=
  (List.range w.toList.length).foldl (fun r t => roundAt t (w.getD t 0) r) r

/-- R130: COMPRESS. -/
@[irreducible] def compress (h : Hash) (blk : Block) : Hash := updateHash h (rounds (expand blk) (loadWork h))

/-! ## The engine's micro-sequence (R34, R141) -/

/-- R131, R132, R139: W and the working registers are loaded and t starts at 0. -/
def Engine.load (h : Hash) (blk : Block) : Engine := { work := loadWork h, w := expand blk, t := 0 }

/-- R34, R138: one round; t advances by exactly 1 and stops at 80. -/
def Engine.tick (g : Engine) : Engine :=
  if ht : g.t.val < 80 then
    { g with work := roundAt g.t.val (g.w.getD g.t.val 0) g.work, t := ⟨g.t.val + 1, by omega⟩ }
  else g

/-- R141: the engine's registers when every schedule word has had its round, at t = 80. -/
@[irreducible] def Engine.run (h : Hash) (blk : Block) : Engine :=
  Nat.iterate Engine.tick (expand blk).toList.length (Engine.load h blk)

/-- R141: one compression on the core's registers: the rounds, then UPDATE into H. -/
def CoreState.compressBlock (c : CoreState) (blk : Block) : CoreState :=
  { c with eng := Engine.run c.h blk, h := updateHash c.h (Engine.run c.h blk).work }

/-- Several compressions, in order. -/
def CoreState.compressBlocks (c : CoreState) (blks : List Block) : CoreState :=
  blks.foldl CoreState.compressBlock c

/-! ## The 16-word window (R142) -/

/-- R142: one step of the circular window: slot `t mod 16` becomes `W[t]`. -/
def windowStep (wc : Block) (t : Nat) : Block :=
  wc.setIfInBounds (t % 16)
    (scheduleWord (wc.getD ((t - 3) % 16) 0) (wc.getD ((t - 8) % 16) 0) (wc.getD ((t - 14) % 16) 0) (wc.getD (t % 16) 0))

/-- R142: the window after the words up to `W[t]` have been produced. -/
def windowAt (blk : Block) (t : Nat) : Block := (List.range' 16 (t - 15)).foldl windowStep blk

/-- R142: the schedule word t as an implementation with the window has it. -/
def windowWord (blk : Block) (t : Nat) : Word := (windowAt blk t).getD (t % 16) 0

end Sys2Proof.Machine
end

