-- ==== Sys2Proof/Machine/Padding.lean ====
section
/-! DEFINITION. Padding and finalization (spec/42_hash_stream.md R170, R171) and the HMAC pad blocks (R206). -/

namespace Sys2Proof.Machine

/-- R170: the number of zero bytes, `(55 − n) mod 64`. -/
def padZeros (n : Nat) : Nat := (119 - n % 64) % 64

/-- R170: Pad(tail, L). -/
def pad (tail : List Byte) (len : Nat) : List Byte :=
  tail ++ [0x80] ++ copies 0 (padZeros tail.length) ++ be64 (BitVec.ofNat 64 (8 * len))

/-- R171: the blocks of a padded sequence, `words(P[64k : 64k+64])` for k = 0 .. len(P)/64 − 1. -/
def blocksOf (p : List Byte) : List Block :=
  (List.range (p.length / 64)).map fun k => words ((p.drop (64 * k)).take 64)

/-- The final blocks of a stream: R170 cut into blocks as R171 does. -/
def padBlocks (tail : List Byte) (len : Nat) : List Block := blocksOf (pad tail len)

/-- R171: Finish(H, tail, L). -/
def finish (h : Hash) (tail : List Byte) (len : Nat) : Hash := (padBlocks tail len).foldl compress h

/-- R14, R206: the inner pad byte. -/
def innerPadByte : Byte := 0x36

/-- R14, R206: the outer pad byte. -/
def outerPadByte : Byte := 0x5C

/-- R206: `K ⊕ c^64` as a block. -/
def padBlock (key : Vector Byte 64) (c : Byte) : Block := words (xorBytes key.toList c)

/-- R204: `ser(Hk) ‖ 0^44`, the key buffer of a hashed key. -/
def digestKey (h : Hash) : Vector Byte 64 := ⟨(ser h ++ copies 0 44).toArray, by rfl⟩

end Sys2Proof.Machine
end

