-- ==== Sys2Proof/Machine/Ops.lean ====
section
/-! DEFINITION. The named operations on the core: raising an error, starting a job, the checks of a write, the byte path and the
start of a session. -/

namespace Sys2Proof.Machine

/-! ## The model's own plumbing -/

/-- An effect on the core alone: what the host has read, the draws and the schedule stay. -/
def State.mapCore (s : State) (f : CoreState → CoreState) : State := { s with core := f s.core }

/-- R76, R77: a read returns a value and changes nothing in the core. -/
def State.withRdata (s : State) (v : Word) : State := { s with rdata := v }

/-! ## Errors and jobs -/

/-- R251: `raise Error(code)`. The first error stays; this is all that an error does (R263). -/
def CoreState.raise (c : CoreState) (code : ErrCode) : CoreState :=
  if c.err = .none then { c with err := code } else c

/-- R54: StartJob. -/
def CoreState.startJob (c : CoreState) (j : Job) : CoreState := { c with job := j }

/-- What a write does once its checks have decided: execute, raise, or nothing (R251, R256). -/
def CoreState.guarded (c : CoreState) (v : Verdict) (effect : CoreState → CoreState) : CoreState :=
  match v with
  | .accept => effect c
  | .reject code => c.raise code
  | .ignore => c

/-! ## Checks (R254, R260, R261) -/

/-- R260, step 4: INIT and HMAC_INIT, accepted in every session state and with an error recorded. -/
def startsSession : Command → Bool
  | .init => true
  | .final => false
  | .hmacInit => true
  | .hmacKeyEnd => false
  | .hmacFinal => false
  | .abort => false

/-- R254: the session states in which a command is allowed. -/
def cmdAllowed (cmd : Command) (mode : Mode) (phase : Phase) : Bool :=
  match cmd with
  | .init => true
  | .hmacInit => true
  | .abort => true
  | .final => mode = .hash ∧ phase = .msg
  | .hmacKeyEnd => mode = .hmac ∧ phase = .key
  | .hmacFinal => mode = .hmac ∧ phase = .msg

/-- R260: CmdAccept, the checks on a CMD write in order. `none` is a reserved word. -/
def cmdCheck (c : CoreState) : Option Command → Verdict
  | some .abort => .accept
  | cmd =>
    if c.job ≠ .none then .reject .busy
    else match cmd with
      | none => .reject .badCmd
      | some cmd =>
        if startsSession cmd then .accept
        else if c.err ≠ .none then .ignore
        else if cmdAllowed cmd c.mode c.phase then .accept
        else .reject .seq

/-- R173: the number of bytes already in the current stream. -/
def CoreState.streamlen (c : CoreState) : Nat :=
  if c.phase = .key ∧ c.keyhash = false then c.keylen.val else c.msglen

/-- R261: DinAccept(n), the checks on a data write of n bytes in order. -/
def dinCheck (c : CoreState) (n : Nat) : Verdict :=
  if c.job ≠ .none then .reject .busy
  else if c.err ≠ .none then .ignore
  else if ¬(c.phase = .key ∨ c.phase = .msg) then .reject .seq
  else if c.streamlen + n > Config.maxLen then .reject .length
  else .accept

/-! ## The byte path (R174, R175, R201, R202) -/

/-- R51: the meaningful bytes of the block buffer, `blockbuf[0:fill]`. -/
def CoreState.tail (c : CoreState) : List Byte := c.blockbuf.toList.take c.fill.val

/-- R53: the key bytes received so far, `K[0:keylen]`. -/
def CoreState.keyBytes (c : CoreState) : List Byte := c.key.toList.take c.keylen.val

/-- R175: MsgPushByte. The 64th byte starts a BLOCK job on the latched words and empties the buffer. -/
def CoreState.msgPushByte (c : CoreState) (b : Byte) : CoreState :=
  let buf := c.blockbuf.set c.fill.val b
  if hf : c.fill.val + 1 < 64 then
    { c with blockbuf := buf, fill := ⟨c.fill.val + 1, hf⟩, msglen := c.msglen + 1 }
  else
    { c with blockbuf := buf, fill := 0, msglen := c.msglen + 1 }.startJob (.block (words buf.toList))

/-- R201, R202: KeyPushByte. The first 64 bytes go to K; the 65th starts the hash of the key. -/
def CoreState.keyPushByte (c : CoreState) (b : Byte) : CoreState :=
  if hk : c.keylen.val < 64 then
    { c with key := c.key.set c.keylen.val b, keylen := ⟨c.keylen.val + 1, by omega⟩ }
  else
    { c with keyhash := true, h := iv, blockbuf := c.blockbuf.set 0 b, fill := 1, msglen := 65 }.startJob
      (.block (words c.key.toList))

/-- R174: PushByte. -/
def CoreState.pushByte (c : CoreState) (b : Byte) : CoreState :=
  if c.phase = .key ∧ c.keyhash = false then c.keyPushByte b else c.msgPushByte b

/-- R78, R176: the bytes of one write, in order, in one step. -/
def CoreState.pushBytes (c : CoreState) (bs : List Byte) : CoreState := bs.foldl CoreState.pushByte c

/-! ## Sessions (R178, R200, R238) -/

/-- R178, R200: what INIT and HMAC_INIT share: IV into H, buffers, lengths, key state and error cleared. -/
def CoreState.startSession (c : CoreState) (mode : Mode) (phase : Phase) : CoreState :=
  { c with
    mode := mode
    phase := phase
    h := iv
    blockbuf := Vector.replicate 64 0
    fill := 0
    msglen := 0
    key := Vector.replicate 64 0
    keylen := 0
    keyhash := false
    err := .none }

/-- R237: the effect of an accepted command (issue part). ABORT is the reset state of every element (R238). -/
def CoreState.runCommand (c : CoreState) : Command → CoreState
  | .init => c.startSession .hash .msg
  | .final => c.startJob .final
  | .hmacInit => c.startSession .hmac .key
  | .hmacKeyEnd => c.startJob .keyEnd
  | .hmacFinal => c.startJob .hFinal
  | .abort => CoreState.reset

/-- R290: the reset input puts every element at its reset value, at any point of a run. -/
def resetStep (s : State) : State := s.mapCore fun _ => CoreState.reset

end Sys2Proof.Machine
end

