-- ==== Sys2Proof/Machine/Commands.lean ====
section
/-! DEFINITION. WR_CMD and the six commands (spec/44_register_access.md R237, R238; spec/42_hash_stream.md R178, R179;
spec/43_hmac_controller.md R200, R203, R207). -/

namespace Sys2Proof.Machine

/-- R237, R260: a CMD write whose word is the given command, or reserved (`none`). -/
def CoreState.cmdWrite (c : CoreState) (cmd : Option Command) : CoreState :=
  c.guarded (cmdCheck c cmd) fun c =>
    match cmd with
    | some cmd => c.runCommand cmd
    | none => c

/-- R237: decode the word and execute it. -/
def execWrCmd (wdata : Word) (s : State) : Host.Outcome State Fault Refusal :=
  .next (s.mapCore fun c => c.cmdWrite (decodeCmd wdata))

/-- R178 -/
def execInit (s : State) : Host.Outcome State Fault Refusal := .next (s.mapCore fun c => c.cmdWrite (some .init))

/-- R179 -/
def execFinal (s : State) : Host.Outcome State Fault Refusal := .next (s.mapCore fun c => c.cmdWrite (some .final))

/-- R200 -/
def execHmacInit (s : State) : Host.Outcome State Fault Refusal :=
  .next (s.mapCore fun c => c.cmdWrite (some .hmacInit))

/-- R203 -/
def execHmacKeyEnd (s : State) : Host.Outcome State Fault Refusal :=
  .next (s.mapCore fun c => c.cmdWrite (some .hmacKeyEnd))

/-- R207 -/
def execHmacFinal (s : State) : Host.Outcome State Fault Refusal :=
  .next (s.mapCore fun c => c.cmdWrite (some .hmacFinal))

/-- R238 -/
def execAbort (s : State) : Host.Outcome State Fault Refusal := .next (s.mapCore fun c => c.cmdWrite (some .abort))

end Sys2Proof.Machine
end

