-- ==== Sys2Proof/Machine/DataWrites.lean ====
section
/-! DEFINITION. The data writes (spec/42_hash_stream.md R176, R177). -/

namespace Sys2Proof.Machine

/-- R176, R177, R261: a data write of the given bytes: all of them after the checks, or none. -/
def CoreState.dinWrite (c : CoreState) (bs : List Byte) : CoreState :=
  c.guarded (dinCheck c bs.length) fun c => c.pushBytes bs

/-- R176 -/
def execWrDinWord (wdata : Word) (s : State) : Host.Outcome State Fault Refusal :=
  .next (s.mapCore fun c => c.dinWrite (dinWordBytes wdata))

/-- R177 -/
def execWrDinByte (wdata : Word) (s : State) : Host.Outcome State Fault Refusal :=
  .next (s.mapCore fun c => c.dinWrite (dinByteBytes wdata))

end Sys2Proof.Machine
end

