-- ==== Sys2Proof/Machine/IgnoredWrites.lean ====
section
/-! DEFINITION. Writes to read-only and reserved slots (spec/44_register_access.md R236): no state changes and no error is
recorded, even while BUSY or with an error. -/

namespace Sys2Proof.Machine

/-- R236: the whole effect of an ignored write. -/
def ignoreWrite (_wdata : Word) (s : State) : State := s

/-- R236 -/
def execWrId (wdata : Word) (s : State) : Host.Outcome State Fault Refusal := .next (ignoreWrite wdata s)

/-- R236 -/
def execWrStatus (wdata : Word) (s : State) : Host.Outcome State Fault Refusal := .next (ignoreWrite wdata s)

/-- R236 -/
def execWrH0 (wdata : Word) (s : State) : Host.Outcome State Fault Refusal := .next (ignoreWrite wdata s)

/-- R236 -/
def execWrH1 (wdata : Word) (s : State) : Host.Outcome State Fault Refusal := .next (ignoreWrite wdata s)

/-- R236 -/
def execWrH2 (wdata : Word) (s : State) : Host.Outcome State Fault Refusal := .next (ignoreWrite wdata s)

/-- R236 -/
def execWrH3 (wdata : Word) (s : State) : Host.Outcome State Fault Refusal := .next (ignoreWrite wdata s)

/-- R236 -/
def execWrH4 (wdata : Word) (s : State) : Host.Outcome State Fault Refusal := .next (ignoreWrite wdata s)

/-- R236, idx 10 and 11 -/
def execWrRsvdA (_lo : BitVec 1) (wdata : Word) (s : State) : Host.Outcome State Fault Refusal :=
  .next (ignoreWrite wdata s)

/-- R236, idx 12 to 15 -/
def execWrRsvdB (_lo : BitVec 2) (wdata : Word) (s : State) : Host.Outcome State Fault Refusal :=
  .next (ignoreWrite wdata s)

end Sys2Proof.Machine
end

