-- ==== Sys2Proof/Machine/Reads.lean ====
section
/-! DEFINITION. The bus reads (spec/44_register_access.md R231 to R235). -/

namespace Sys2Proof.Machine

/-- R234: a read of one word of H. While a job is in flight the value is a free value, a new one at each read. -/
def State.readHash (s : State) (word : Hash → Word) : State :=
  if s.core.job = .none then s.withRdata (word s.core.h)
  else { s.withRdata (Config.draw s.draws) with draws := s.draws + 1 }

/-- R235: a read of a write-only or reserved slot returns 0. -/
def State.readZero (s : State) : State := s.withRdata 0

/-- R232 -/
def execRdId (s : State) : Host.Outcome State Fault Refusal := .next (s.withRdata idValue)

/-- R235 -/
def execRdCmd (s : State) : Host.Outcome State Fault Refusal := .next s.readZero

/-- R233 -/
def execRdStatus (s : State) : Host.Outcome State Fault Refusal := .next (s.withRdata (status s.core))

/-- R235 -/
def execRdDinWord (s : State) : Host.Outcome State Fault Refusal := .next s.readZero

/-- R235 -/
def execRdDinByte (s : State) : Host.Outcome State Fault Refusal := .next s.readZero

/-- R234, i = 0 -/
def execRdH0 (s : State) : Host.Outcome State Fault Refusal := .next (s.readHash Hash.h0)

/-- R234, i = 1 -/
def execRdH1 (s : State) : Host.Outcome State Fault Refusal := .next (s.readHash Hash.h1)

/-- R234, i = 2 -/
def execRdH2 (s : State) : Host.Outcome State Fault Refusal := .next (s.readHash Hash.h2)

/-- R234, i = 3 -/
def execRdH3 (s : State) : Host.Outcome State Fault Refusal := .next (s.readHash Hash.h3)

/-- R234, i = 4 -/
def execRdH4 (s : State) : Host.Outcome State Fault Refusal := .next (s.readHash Hash.h4)

/-- R235, idx 10 and 11 -/
def execRdRsvdA (_lo : BitVec 1) (s : State) : Host.Outcome State Fault Refusal := .next s.readZero

/-- R235, idx 12 to 15 -/
def execRdRsvdB (_lo : BitVec 2) (s : State) : Host.Outcome State Fault Refusal := .next s.readZero

end Sys2Proof.Machine
end

