-- ==== Sys2Proof/Machine/Dispatch.lean ====
section
/-! DEFINITION. One arm per instruction, each one call of its meaning. -/

namespace Sys2Proof.Machine

def exec (i : Instr) (s : State) : Host.Outcome State Fault Refusal :=
  match i with
  -- reads
  | .rdId => Sys2Proof.Machine.execRdId s
  | .rdCmd => Sys2Proof.Machine.execRdCmd s
  | .rdStatus => Sys2Proof.Machine.execRdStatus s
  | .rdDinWord => Sys2Proof.Machine.execRdDinWord s
  | .rdDinByte => Sys2Proof.Machine.execRdDinByte s
  | .rdH0 => Sys2Proof.Machine.execRdH0 s
  | .rdH1 => Sys2Proof.Machine.execRdH1 s
  | .rdH2 => Sys2Proof.Machine.execRdH2 s
  | .rdH3 => Sys2Proof.Machine.execRdH3 s
  | .rdH4 => Sys2Proof.Machine.execRdH4 s
  | .rdRsvdA lo => Sys2Proof.Machine.execRdRsvdA lo s
  | .rdRsvdB lo => Sys2Proof.Machine.execRdRsvdB lo s
  -- writes
  | .wrId wdata => Sys2Proof.Machine.execWrId wdata s
  | .wrCmd wdata => Sys2Proof.Machine.execWrCmd wdata s
  | .wrStatus wdata => Sys2Proof.Machine.execWrStatus wdata s
  | .wrDinWord wdata => Sys2Proof.Machine.execWrDinWord wdata s
  | .wrDinByte wdata => Sys2Proof.Machine.execWrDinByte wdata s
  | .wrH0 wdata => Sys2Proof.Machine.execWrH0 wdata s
  | .wrH1 wdata => Sys2Proof.Machine.execWrH1 wdata s
  | .wrH2 wdata => Sys2Proof.Machine.execWrH2 wdata s
  | .wrH3 wdata => Sys2Proof.Machine.execWrH3 wdata s
  | .wrH4 wdata => Sys2Proof.Machine.execWrH4 wdata s
  | .wrRsvdA lo wdata => Sys2Proof.Machine.execWrRsvdA lo wdata s
  | .wrRsvdB lo wdata => Sys2Proof.Machine.execWrRsvdB lo wdata s
  -- commands
  | .init => Sys2Proof.Machine.execInit s
  | .final => Sys2Proof.Machine.execFinal s
  | .hmacInit => Sys2Proof.Machine.execHmacInit s
  | .hmacKeyEnd => Sys2Proof.Machine.execHmacKeyEnd s
  | .hmacFinal => Sys2Proof.Machine.execHmacFinal s
  | .abort => Sys2Proof.Machine.execAbort s

end Sys2Proof.Machine
end

