-- ==== Sys2Proof/Machine/EngineSteps.lean ====
section
/-! DEFINITION. The ENGINE's completion step (spec/41_compression_engine.md R143, R144; spec/42_hash_stream.md R180;
spec/43_hmac_controller.md R204, R208). Each compression goes through the core's own registers H, A to E, W and t, all inside the one step (log 4). -/

namespace Sys2Proof.Machine

/-- R144: BLOCK completion. -/
def CoreState.completeBlock (c : CoreState) (blk : Block) : CoreState := c.compressBlock blk

/-- R180: FINAL completion: pad and finish the tail, then RESULT. -/
def CoreState.completeFinal (c : CoreState) : CoreState :=
  { c.compressBlocks (padBlocks c.tail c.msglen) with fill := 0, phase := .result }

/-- R204, first part: a hashed key is finished and replaced by its digest and 44 zero bytes. -/
def CoreState.settleKey (c : CoreState) : CoreState :=
  if c.keyhash then
    let c1 := c.compressBlocks (padBlocks c.tail c.msglen)
    { c1 with key := digestKey c1.h }
  else c

/-- R204: HMAC_KEY_END completion: settle the key, then compress the inner pad block from the IV. -/
def CoreState.completeKeyEnd (c : CoreState) : CoreState :=
  let c1 := c.settleKey
  let c2 := { c1 with h := iv }.compressBlock (padBlock c1.key innerPadByte)
  { c2 with msglen := 64, fill := 0, phase := .msg }

/-- R208: HMAC_FINAL completion: the inner digest, then the outer pad block from the IV, then the outer final block. -/
def CoreState.completeHFinal (c : CoreState) : CoreState :=
  let c1 := c.compressBlocks (padBlocks c.tail c.msglen)
  let inner := ser c1.h
  let c2 := { c1 with h := iv }.compressBlock (padBlock c1.key outerPadByte)
  let c3 := c2.compressBlocks (padBlocks inner (64 + 20))
  { c3 with fill := 0, phase := .result }

/-- R143: the completion step, with BUSY cleared. It is enabled only while a job is in flight; without one the model's
engine event changes nothing (log 2). -/
def CoreState.complete (c : CoreState) : CoreState :=
  match c.job with
  | .none => c
  | .block blk => { c.completeBlock blk with job := .none }
  | .final => { c.completeFinal with job := .none }
  | .keyEnd => { c.completeKeyEnd with job := .none }
  | .hFinal => { c.completeHFinal with job := .none }

/-- R81, R143: an ENGINE step of a run. -/
def engineStep (s : State) : State := s.mapCore CoreState.complete

end Sys2Proof.Machine
end

