-- ==== Sys2Proof/Machine/Fetch.lean ====
section
/-! DEFINITION. What happens next (spec/20_memory.md R81): the head of the schedule, or, when the HOST has nothing left, the
ENGINE step still owed (spec/41_compression_engine.md R145, spec/70_reset_and_hazards.md R302). -/

namespace Sys2Proof.Machine

/-- What the next step of a run is. -/
inductive Fetched where
  /-- A HOST transaction, and the state to execute it in. -/
  | txn (txn : Txn) (s : State)
  /-- A step that is no host operation, with the state it leaves. -/
  | internal (s : State)
deriving DecidableEq, Repr

/-- R81, R145, R290, R302: take the next event off the schedule. With nothing scheduled a job in flight completes, and
without a job the core idles (R272; log 3). -/
def fetch (s : State) : Fetched :=
  match s.events with
  | [] => .internal (engineStep s)
  | .host txn :: rest => .txn txn { s with events := rest }
  | .engine :: rest => .internal (engineStep { s with events := rest })
  | .reset :: rest => .internal (resetStep { s with events := rest })

/-- Put a transaction in front of everything scheduled. -/
def place (s : State) (txn : Txn) : State := { s with events := .host txn :: s.events }

end Sys2Proof.Machine
end

