-- ==== Sys2Proof/Machine/Step.lean ====
section
/-! DEFINITION. One step of a run: a HOST transaction decoded and executed, an ENGINE completion, or a reset. -/

namespace Sys2Proof.Machine

/-- R76, R81: one atomic step. -/
def step (s : State) : Host.Outcome State Fault Refusal :=
  match fetch s with
  | .txn txn s' => exec (decode txn) s'
  | .internal s' => .next s'

/-- The state whose next step runs the instruction that a word of spec/opcode_table.json's numbering is: its transaction is
the next event (log 1, 11). A word that is no instruction places nothing. -/
def State.withFetchWord (s : State) (nbits w : Nat) : State :=
  match tableTxn nbits w with
  | .ok txn => place s txn
  | .error _ => s

end Sys2Proof.Machine
end

