-- ==== Sys2Proof/Machine/HostScript.lean ====
section
/-! DEFINITION. The address window (spec/20_memory.md R75, R79; spec/10_state.md R35) and the host script statements as
transactions (spec/30_encoding.md R111, R112). -/

namespace Sys2Proof.Machine

/-- R15, R35, R75, R79: the slot a platform address selects: `addr[5:2]` inside the 64-byte window, and no slot of this core
outside it. -/
def slotOfAddr (addr : Nat) : Option (BitVec 4) :=
  if Config.coreBase ≤ addr ∧ addr < Config.coreBase + 64 then some (BitVec.ofNat 4 (addr / 4)) else none

/-- R35: the byte address of a slot, `CORE_BASE + 4 × idx`. -/
def addrOfSlot (idx : BitVec 4) : Nat := Config.coreBase + 4 * idx.toNat

/-- R35, R111: the slot of a register name. -/
def regIdx : Reg → BitVec 4
  | .id => 0
  | .cmd => 1
  | .status => 2
  | .dinWord => 3
  | .dinByte => 4
  | .h0 => 5
  | .h1 => 6
  | .h2 => 7
  | .h3 => 8
  | .h4 => 9
  | .rsv10 => 10
  | .rsv11 => 11
  | .rsv12 => 12
  | .rsv13 => 13
  | .rsv14 => 14
  | .rsv15 => 15

/-- R111, R112: the transactions of one statement. -/
def expandStmt : Stmt → List Txn
  | .rd reg => [.read (regIdx reg)]
  | .wr reg imm => [.write (regIdx reg) imm]
  | .cmd c => [.write (regIdx .cmd) c.word]
  | .pushW imm => [.write (regIdx .dinWord) imm]
  | .pushB imm => [.write (regIdx .dinByte) (imm.setWidth 32)]
  | .wait more => List.replicate (more + 1) (.read (regIdx .status))
  | .rdh => [Reg.h0, .h1, .h2, .h3, .h4].map fun reg => .read (regIdx reg)

end Sys2Proof.Machine
end

