-- ==== Sys2Proof/Machine/Digests.lean ====
section
/-! DEFINITION. The two whole-message functions that a session computes (spec/42_hash_stream.md R183,
spec/43_hmac_controller.md R205, R209), on byte sequences and without any register, and what the events of a session
deliver. -/

namespace Sys2Proof.Machine

/-- R183: `digest(m)`: the whole message padded and compressed from the IV (R170, R171 with the message as the tail). -/
def digest (m : List Byte) : Hash := finish iv m m.length

/-- R205: the 64-byte padded key. -/
def paddedKey (k : List Byte) : List Byte :=
  if k.length ≤ 64 then k ++ copies 0 (64 - k.length) else ser (digest k) ++ copies 0 44

/-- R209: `digest(outerKeyPad ‖ digest(innerKeyPad ‖ m))`. -/
def hmac (k m : List Byte) : Hash :=
  digest (xorBytes (paddedKey k) outerPadByte ++ ser (digest (xorBytes (paddedKey k) innerPadByte ++ m)))

/-- The stream bytes an event delivers: those of a data write (R102, R103), none for any other event. -/
def eventBytes : Event → List Byte
  | .host (.write idx wdata) =>
    if idx = 0x3 then dinWordBytes wdata else if idx = 0x4 then dinByteBytes wdata else []
  | .host (.read _) => []
  | .engine => []
  | .reset => []

/-- The bytes a sequence of events delivers, in order. -/
def deliveredBytes (evs : List Event) : List Byte := evs.flatMap eventBytes

/-- An event that is neither a command nor a reset: a read, a data write, an ignored write or an ENGINE step. -/
def Event.isCommandFree : Event → Bool
  | .host (.write idx _) => idx ≠ 0x1
  | .host (.read _) => true
  | .engine => true
  | .reset => false

/-- The event that issues a command (R106, R237). -/
def commandEvent (cmd : Command) : Event := .host (.write 0x1 cmd.word)

end Sys2Proof.Machine
end

