-- ==== Sys2Proof/WellFormed.lean ====
section
/-! DEFINITION. Which terms of Instr are instructions. -/

namespace Sys2Proof

/-- An operand is checked in one place only: WR_CMD with one of the six defined words is that command's own row (R106),
so `wrCmd` holds a reserved word (R107; log 10). Every other operand is right by its type. -/
def Instr.wf : Instr → Bool
  | .rdId => true
  | .rdCmd => true
  | .rdStatus => true
  | .rdDinWord => true
  | .rdDinByte => true
  | .rdH0 => true
  | .rdH1 => true
  | .rdH2 => true
  | .rdH3 => true
  | .rdH4 => true
  | .rdRsvdA _ => true
  | .rdRsvdB _ => true
  | .wrId _ => true
  | .wrCmd wdata => (decodeCmd wdata).isNone
  | .wrStatus _ => true
  | .wrDinWord _ => true
  | .wrDinByte _ => true
  | .wrH0 _ => true
  | .wrH1 _ => true
  | .wrH2 _ => true
  | .wrH3 _ => true
  | .wrH4 _ => true
  | .wrRsvdA _ _ => true
  | .wrRsvdB _ _ => true
  | .init => true
  | .final => true
  | .hmacInit => true
  | .hmacKeyEnd => true
  | .hmacFinal => true
  | .abort => true

end Sys2Proof
end

