-- ==== Sys2Proof/Safety.lean ====
section
/-! DEFINITION. What claims are stated in: the invariants of the core (spec/10_state.md R33, R51 to R54, R58), a valid result
(spec/70_reset_and_hazards.md R299), and the classes of instructions that several rules name together. -/

namespace Sys2Proof.Machine

/-- R33: the six (mode, phase) pairs. -/
def sessionPairs : List (Mode × Phase) :=
  [(.none, .none), (.hash, .msg), (.hash, .result), (.hmac, .key), (.hmac, .msg), (.hmac, .result)]

/-- Each job kind runs in its own session states (from R54: who starts it, and R254: where that is allowed). -/
def CoreState.jobFits (c : CoreState) : Prop :=
  match c.job with
  | .none => True
  | .block _ => c.phase = .msg ∨ (c.phase = .key ∧ c.keyhash = true)
  | .final => c.mode = .hash ∧ c.phase = .msg
  | .keyEnd => c.mode = .hmac ∧ c.phase = .key
  | .hFinal => c.mode = .hmac ∧ c.phase = .msg

/-- R58 with the facts of R33, R52, R53 and R54 it rests on. Items 1 and 2 (`fill < 64`, `keylen ≤ 64`) hold by the types
of the two fields; item 7 is about two states and is stated on its own. -/
structure CoreState.Inv (c : CoreState) : Prop where
  /-- R33 -/
  session : (c.mode, c.phase) ∈ sessionPairs
  /-- R58.3, for every phase: a hashed key has filled K. -/
  hashedKeyFull : c.keyhash = true → c.keylen.val = 64
  /-- R58.3 -/
  hashedKeyLen : c.phase = .key → c.keyhash = true → 65 ≤ c.msglen
  /-- R58.4 -/
  noSession : c.mode = .none → c.phase = .none ∧ c.job = .none ∧ c.fill.val = 0
  /-- R58.5 -/
  plainKey : c.phase = .key → c.keyhash = false → c.fill.val = 0 ∧ c.msglen = 0
  /-- R58.6 -/
  hmacMsg : c.mode = .hmac → c.phase = .msg → 64 ≤ c.msglen
  /-- R58.8, first part -/
  fillCongruent : ¬(c.phase = .key ∧ c.keyhash = false) → c.phase ≠ .result → c.msglen % 64 = c.fill.val
  /-- R58.8, second part -/
  resultFill : c.phase = .result → c.fill.val = 0
  /-- R52 -/
  lenBound : c.msglen ≤ Config.maxLen
  /-- R53: K is zero beyond `keylen`. -/
  keyZero : ∀ i (hi : i < 64), c.keylen.val ≤ i → c.key[i] = 0
  /-- R54, R254 -/
  jobFits : c.jobFits

/-- R299: the result of a session is valid: BUSY = 0, DONE = 1, ERR = 0. -/
def CoreState.resultValid (c : CoreState) : Prop := c.job = .none ∧ c.phase = .result ∧ c.err = .none

/-- R102, R103: `i` is a data write of the bytes `bs`. -/
def isDataWrite (i : Instr) (bs : List Byte) : Prop :=
  ∃ wdata : Word,
    (i = .wrDinWord wdata ∧
        bs = [wdata.extractLsb' 24 8, wdata.extractLsb' 16 8, wdata.extractLsb' 8 8, wdata.extractLsb' 0 8]) ∨
      (i = .wrDinByte wdata ∧ bs = [wdata.extractLsb' 0 8])

/-- R257: the instructions that start over: INIT, HMAC_INIT, ABORT. -/
def startsOver : List Instr := [.init, .hmacInit, .abort]

/-- R251: the error register after an error with this code. -/
def errAfter (c : CoreState) (code : ErrCode) : ErrCode := if c.err = .none then code else c.err

/-- R174: the bytes of a data write go to the block buffer: MSG phase, or KEY phase of a key that is being hashed. -/
def CoreState.streamsToBuffer (c : CoreState) : Prop := c.phase = .msg ∨ (c.phase = .key ∧ c.keyhash = true)

/-- R174: the bytes of a data write go to K first: KEY phase of a key not hashed yet. -/
def CoreState.streamsToKey (c : CoreState) : Prop := c.phase = .key ∧ c.keyhash = false

end Sys2Proof.Machine
end

