-- ==== Sys2Proof/Certificates/Slice0/Obligations.lean ====
section
/-! DEFINITION. The statements for the provers, from the numbered rules of spec/. -/

open Sys2Proof Sys2Proof.Machine

/-! ## Encoding (spec/30_encoding.md) -/

/-- R100, R105, R106: every well-formed instruction, with every operand value, is read back from its own transaction. -/
def Obligations.DecodeEncodeRoundTrip : Prop :=
  ∀ i : Instr, i.wf = true → decode (encode i) = i

/-- R100, R105, R106, R107: every transaction is a well-formed instruction whose transaction it is. -/
def Obligations.EncodeDecodeRoundTrip : Prop :=
  ∀ txn : Txn, (decode txn).wf = true ∧ encode (decode txn) = txn

/-- R100: the selector is we × 16 + idx, every selector is in exactly one BUS row of the opcode table, and the decoder's
instruction is of the row its transaction's selector is in. -/
def Obligations.EverySelectorInExactlyOneRow : Prop :=
  (∀ (idx : BitVec 4) (w : Word),
      (Txn.read idx).code.toNat = idx.toNat ∧ (Txn.write idx w).code.toNat = 16 + idx.toNat) ∧
    (∀ t : BitVec 5, ∃! r, r ∈ busRows ∧ r.covers t = true) ∧
    ∀ txn : Txn, ∀ r ∈ busRows, r.covers txn.code = true → r.mnemonic = busMnemonic (decode txn)

/-- R100, R105, R106: words written out from the maps, one or more of each family. -/
def Obligations.TableWordsDecode : Prop :=
  decodeTableWord 8 0x00 = some .rdId ∧ decodeTableWord 8 0x02 = some .rdStatus ∧
    decodeTableWord 8 0x09 = some .rdH4 ∧ decodeTableWord 8 0x0A = some (.rdRsvdA 0) ∧
    decodeTableWord 8 0x0F = some (.rdRsvdB 3) ∧ decodeTableWord 8 0x10 = some (.wrId 0) ∧
    decodeTableWord 8 0x11 = some (.wrCmd 0) ∧ decodeTableWord 8 0x13 = some (.wrDinWord 0) ∧
    decodeTableWord 8 0x1C = some (.wrRsvdB 0 0) ∧ decodeTableWord 32 0x00000001 = some .init ∧
    decodeTableWord 32 0x0000000F = some .abort ∧ decodeTableWord 8 0x20 = none ∧
    decode (.write 0x4 0xFFFFFF61) = .wrDinByte 0xFFFFFF61

/-- R101, R106, R107: a command word is defined exactly if RSVD is 0 and OPCODE is one of six values, and all 32 bits are
compared. -/
def Obligations.CommandWordsAreMatchedWhole : Prop :=
  ∀ w : Word,
    ((decodeCmd w).isSome = true ↔
        w.extractLsb' 8 24 = 0 ∧
          w.extractLsb' 0 8 ∈ ([0x01, 0x02, 0x03, 0x04, 0x05, 0x0F] : List Byte)) ∧
      (decodeCmd w = some .init ↔ w = 0x00000001) ∧ (decodeCmd w = some .final ↔ w = 0x00000002) ∧
      (decodeCmd w = some .hmacInit ↔ w = 0x00000003) ∧ (decodeCmd w = some .hmacKeyEnd ↔ w = 0x00000004) ∧
      (decodeCmd w = some .hmacFinal ↔ w = 0x00000005) ∧ (decodeCmd w = some .abort ↔ w = 0x0000000F)

/-! ## Steps (spec/20_memory.md R76, R81; spec/41_compression_engine.md R143, R145; spec/70_reset_and_hazards.md R290) -/

/-- R76, R81: when a HOST transaction is next, the step is that transaction decoded and executed, once it is taken off the
schedule; nothing else happens in the step. -/
def Obligations.StepRunsTheDecodedInstruction : Prop :=
  ∀ (s : State) (txn : Txn) (rest : List Event),
    s.events = .host txn :: rest → step s = exec (decode txn) { s with events := rest }

/-- R81, R143, R290: an ENGINE step completes the job in flight, a reset step puts the core at its reset values, and neither
touches anything else. The clauses for no job and for an empty schedule are the model's (log 2, 3), as are the reset values
that R59 leaves unspecified (log 6). -/
def Obligations.EngineAndResetSteps : Prop :=
  ∀ (s : State) (rest : List Event),
    (s.events = .engine :: rest → step s = .next { s with core := s.core.complete, events := rest }) ∧
      (s.events = .reset :: rest → step s = .next { s with core := CoreState.reset, events := rest }) ∧
      (s.events = [] → step s = .next { s with core := s.core.complete }) ∧
      (s.core.job = .none → s.core.complete = s.core)

/-- R76, spec/93 part 1: every transaction completes and there is no stuck case: no instruction and no step stops. -/
def Obligations.EveryTransactionCompletes : Prop :=
  (∀ (i : Instr) (s : State), ∃ t, exec i s = .next t) ∧ ∀ s : State, ∃ t, step s = .next t

/-- R145, R302: from every state, the run of the scheduled steps and the one step still owed ends with no job in flight and
nothing left to do. -/
def Obligations.EveryJobEnds : Prop :=
  ∀ s : State, ∃ t,
    Host.Core.run Sys2Proof.core (s.events.length + 1) s = .next t ∧ t.core.job = .none ∧ t.events = []

/-! ## Invariants (spec/10_state.md R33, R58) -/

/-- R59 (through R33, R58): the invariant holds at reset. -/
def Obligations.InvariantHoldsAtReset : Prop := CoreState.Inv State.reset.core

/-- R33, R58: the invariant is kept by every step, from every state that has it. -/
def Obligations.EveryStepKeepsTheInvariant : Prop :=
  ∀ s t : State, s.core.Inv → step s = .next t → t.core.Inv

/-- R58.7: a step that starts a job starts it with no error recorded, before and after. -/
def Obligations.JobsStartOnlyWithoutError : Prop :=
  ∀ s t : State,
    step s = .next t → s.core.job = .none → t.core.job ≠ .none → s.core.err = .none ∧ t.core.err = .none

/-- R181, R252, R295: while a job is in flight no instruction but ABORT changes anything in the core but the error register. -/
def Obligations.JobInFlightIsUndisturbed : Prop :=
  ∀ (i : Instr) (s : State),
    i.wf = true → i ≠ .abort → s.core.job ≠ .none →
      ∃ t, exec i s = .next t ∧ t.core = { s.core with err := t.core.err } ∧ t.events = s.events

/-! ## Reset (spec/10_state.md R59, spec/70_reset_and_hazards.md R292) -/

/-- R59: the elements that have a reset value, and STATUS and ID, after reset and after ABORT. -/
def Obligations.ResetValues : Prop :=
  let AtReset (s : State) : Prop :=
    s.core.h = ⟨0, 0, 0, 0, 0⟩ ∧ s.core.mode = .none ∧ s.core.phase = .none ∧ s.core.job = .none ∧
      s.core.err = .none ∧ s.core.fill = 0 ∧ s.core.msglen = 0 ∧ s.core.keylen = 0 ∧ s.core.keyhash = false ∧
      (∀ i (hi : i < 64), s.core.key[i] = 0) ∧ exec .rdStatus s = .next { s with rdata := 0x00000000 } ∧
      exec .rdId s = .next { s with rdata := 0x53484131 }
  AtReset State.reset ∧ ∀ s : State, ∃ t, exec .abort s = .next t ∧ AtReset t

/-- R292: after reset H reads 0; a data write, FINAL, HMAC_KEY_END and HMAC_FINAL record SEQ and change nothing else; INIT,
HMAC_INIT and ABORT are accepted. -/
def Obligations.AfterResetOnlySessionsStart : Prop :=
  let seq : State := { State.reset with core := { State.reset.core with err := .seq } }
  let zero : State := { State.reset with rdata := 0 }
  (∀ w, exec (.wrDinWord w) State.reset = .next seq) ∧ (∀ w, exec (.wrDinByte w) State.reset = .next seq) ∧
    exec .final State.reset = .next seq ∧ exec .hmacKeyEnd State.reset = .next seq ∧
    exec .hmacFinal State.reset = .next seq ∧ exec .rdH0 State.reset = .next zero ∧
    exec .rdH1 State.reset = .next zero ∧ exec .rdH2 State.reset = .next zero ∧
    exec .rdH3 State.reset = .next zero ∧ exec .rdH4 State.reset = .next zero ∧
    (∃ t, exec .init State.reset = .next t ∧ status t.core = 0x00000024) ∧
    (∃ t, exec .hmacInit State.reset = .next t ∧ status t.core = 0x00000018) ∧
    ∃ t, exec .abort State.reset = .next t ∧ status t.core = 0x00000000

/-! ## Reads (spec/44_register_access.md) -/

/-- R232, R235: ID, the write-only slots and the reserved slots, in every state. -/
def Obligations.FixedReads : Prop :=
  decode (.read 0x0) = .rdId ∧ decode (.read 0x1) = .rdCmd ∧ decode (.read 0x3) = .rdDinWord ∧
    decode (.read 0x4) = .rdDinByte ∧ decode (.read 0xA) = .rdRsvdA 0 ∧ decode (.read 0xB) = .rdRsvdA 1 ∧
    decode (.read 0xC) = .rdRsvdB 0 ∧ decode (.read 0xD) = .rdRsvdB 1 ∧ decode (.read 0xE) = .rdRsvdB 2 ∧
    decode (.read 0xF) = .rdRsvdB 3 ∧
    ∀ (s : State) (a : BitVec 1) (b : BitVec 2),
      exec .rdId s = .next { s with rdata := 0x53484131 } ∧ exec .rdCmd s = .next { s with rdata := 0 } ∧
        exec .rdDinWord s = .next { s with rdata := 0 } ∧ exec .rdDinByte s = .next { s with rdata := 0 } ∧
        exec (.rdRsvdA a) s = .next { s with rdata := 0 } ∧ exec (.rdRsvdB b) s = .next { s with rdata := 0 }

/-- R38 to R46, R233: RD_STATUS returns STATUS and changes nothing else, and each field of STATUS is what the layout
says, the reserved bits 0. A write to STATUS is ignored. -/
def Obligations.StatusReadAndLayout : Prop :=
  decode (.read 0x2) = .rdStatus ∧ ∀ (s : State) (c : CoreState) (w : Word),
    exec .rdStatus s = .next { s with rdata := status s.core } ∧ exec (.wrStatus w) s = .next s ∧
      (status c).extractLsb' 0 1 = (if c.job = .none then 0 else 1) ∧
      (status c).extractLsb' 1 1 = (if c.phase = .result then 1 else 0) ∧
      (status c).extractLsb' 2 2 = (if c.mode = .none then 0 else if c.mode = .hash then 1 else 2) ∧
      (status c).extractLsb' 4 2 =
        (if c.phase = .none then 0 else if c.phase = .key then 1 else if c.phase = .msg then 2 else 3) ∧
      (status c).extractLsb' 6 1 = (if c.keyhash = true then 1 else 0) ∧
      (status c).extractLsb' 7 1 = 0 ∧
      (status c).extractLsb' 8 4 =
        (if c.err = .none then 0 else if c.err = .busy then 1 else if c.err = .badCmd then 2
          else if c.err = .seq then 3 else 4) ∧
      (status c).extractLsb' 12 4 = 0 ∧ ((status c).extractLsb' 16 6).toNat = c.fill.val ∧
      (status c).extractLsb' 22 10 = 0

/-- R234, first branch: with no job in flight a read of Hi returns the word and changes nothing else. -/
def Obligations.HashReadsWhenIdle : Prop :=
  ∀ s : State, s.core.job = .none →
    exec .rdH0 s = .next { s with rdata := s.core.h.h0 } ∧ exec .rdH1 s = .next { s with rdata := s.core.h.h1 } ∧
      exec .rdH2 s = .next { s with rdata := s.core.h.h2 } ∧ exec .rdH3 s = .next { s with rdata := s.core.h.h3 } ∧
      exec .rdH4 s = .next { s with rdata := s.core.h.h4 }

/-- R234, second branch: while a job is in flight the value is a free value, the next one of the model's draws (log 5); it
holds whatever value that is. -/
def Obligations.HashReadsWhileBusyAreDraws : Prop :=
  ∀ s : State, s.core.job ≠ .none →
    ∀ i ∈ ([.rdH0, .rdH1, .rdH2, .rdH3, .rdH4] : List Instr),
      exec i s = .next { s with rdata := Config.draw s.draws, draws := s.draws + 1 }

/-- R77: a read of any slot leaves the whole core, and the schedule, as they were. -/
def Obligations.ReadsHaveNoSideEffect : Prop :=
  ∀ (idx : BitVec 4) (s : State),
    ∃ t, exec (decode (.read idx)) s = .next t ∧ t.core = s.core ∧ t.events = s.events

/-- R57, R271: what a read returns does not depend on K, keylen, msglen, the block buffer, the engine's registers, the
kind of job or its latched block. -/
def Obligations.HiddenStateCannotBeRead : Prop :=
  ∀ (s s' t t' : State) (idx : BitVec 4),
    s.core.h = s'.core.h → s.core.mode = s'.core.mode → s.core.phase = s'.core.phase → s.core.err = s'.core.err →
      s.core.fill = s'.core.fill → s.core.keyhash = s'.core.keyhash → (s.core.job = .none ↔ s'.core.job = .none) →
      s.draws = s'.draws → exec (decode (.read idx)) s = .next t → exec (decode (.read idx)) s' = .next t' →
      t.rdata = t'.rdata ∧ t.draws = t'.draws

/-! ## Ignored writes (spec/44_register_access.md R236) -/

/-- R236: a write to a read-only or reserved slot changes nothing at all, in every state. -/
def Obligations.IgnoredWrites : Prop :=
  ∀ (s : State) (w : Word) (a : BitVec 1) (b : BitVec 2),
    exec (.wrId w) s = .next s ∧ exec (.wrStatus w) s = .next s ∧ exec (.wrH0 w) s = .next s ∧
      exec (.wrH1 w) s = .next s ∧ exec (.wrH2 w) s = .next s ∧ exec (.wrH3 w) s = .next s ∧
      exec (.wrH4 w) s = .next s ∧ exec (.wrRsvdA a w) s = .next s ∧ exec (.wrRsvdB b w) s = .next s ∧
      ∀ idx : BitVec 4, idx ≠ 0x1 → idx ≠ 0x3 → idx ≠ 0x4 → exec (decode (.write idx w)) s = .next s

/-! ## Commands (spec/44_register_access.md R237, R238; spec/42_hash_stream.md; spec/43_hmac_controller.md) -/

/-- R237: WR_CMD with a command's word does what the command does; with INIT's word and no job in flight it starts a
session, with ABORT's word it gives the reset state. -/
def Obligations.WrCmdExecutesItsWord : Prop :=
  (∀ (c : Command) (s : State), exec (.wrCmd c.word) s = exec c.instr s) ∧
    (∀ s : State, ∃ t, exec (.wrCmd 0x0000000F) s = .next t ∧ status t.core = 0x00000000) ∧
    ∀ s : State, s.core.job = .none →
      ∃ t, exec (.wrCmd 0x00000001) s = .next t ∧ t.core.mode = .hash ∧ t.core.phase = .msg ∧ t.core.h = iv ∧
        t.core.err = .none

/-- R107, R253: a reserved word with no job in flight records BADCMD, unless an earlier error stands, and changes nothing
else. -/
def Obligations.ReservedWordRaisesBadCmd : Prop :=
  ∀ (w : Word) (s : State),
    w ∉ ([0x00000001, 0x00000002, 0x00000003, 0x00000004, 0x00000005, 0x0000000F] : List Word) →
      s.core.job = .none →
      exec (.wrCmd w) s =
        .next { s with core := { s.core with err := if s.core.err = .none then .badCmd else s.core.err } }

/-- R178: INIT: BUSY while a job is in flight, and otherwise, in every session state and with or without an error, a new
SHA-1 session. -/
def Obligations.InitStartsAHashSession : Prop :=
  decode (.write 0x1 0x00000001) = .init ∧ ∀ s : State,
    (s.core.job ≠ .none →
        exec .init s =
          .next { s with core := { s.core with err := if s.core.err = .none then .busy else s.core.err } }) ∧
      (s.core.job = .none →
        ∃ t, exec .init s = .next t ∧
          t = { s with
                core :=
                  { s.core with
                    mode := .hash
                    phase := .msg
                    h := iv
                    blockbuf := Vector.replicate 64 0
                    fill := 0
                    msglen := 0
                    key := Vector.replicate 64 0
                    keylen := 0
                    keyhash := false
                    err := .none } } ∧
          status t.core = 0x00000024)

/-- R200: HMAC_INIT: BUSY while a job is in flight, and otherwise, in every session state and with or without an error, a new
HMAC session. -/
def Obligations.HmacInitStartsTheKeyPhase : Prop :=
  decode (.write 0x1 0x00000003) = .hmacInit ∧ ∀ s : State,
    (s.core.job ≠ .none →
        exec .hmacInit s =
          .next { s with core := { s.core with err := if s.core.err = .none then .busy else s.core.err } }) ∧
      (s.core.job = .none →
        ∃ t, exec .hmacInit s = .next t ∧
          t = { s with
                core :=
                  { s.core with
                    mode := .hmac
                    phase := .key
                    h := iv
                    blockbuf := Vector.replicate 64 0
                    fill := 0
                    msglen := 0
                    key := Vector.replicate 64 0
                    keylen := 0
                    keyhash := false
                    err := .none } } ∧
          status t.core = 0x00000018)

/-- R179, R203, R207: FINAL, HMAC_KEY_END and HMAC_FINAL: BUSY while a job is in flight, ignored while an error is recorded,
SEQ outside the one session state that allows each; there it starts its job and changes nothing else, and of STATUS only
BUSY changes. -/
def Obligations.FinishingCommandsIssueTheirJob : Prop :=
  decode (.write 0x1 0x00000002) = .final ∧ decode (.write 0x1 0x00000004) = .hmacKeyEnd ∧
    decode (.write 0x1 0x00000005) = .hmacFinal ∧ ∀ s : State,
    let seq : State := { s with core := { s.core with err := .seq } }
    (s.core.job ≠ .none → ∀ i ∈ ([.final, .hmacKeyEnd, .hmacFinal] : List Instr),
        exec i s =
          .next { s with core := { s.core with err := if s.core.err = .none then .busy else s.core.err } }) ∧
      (s.core.job = .none → s.core.err ≠ .none → ∀ i ∈ ([.final, .hmacKeyEnd, .hmacFinal] : List Instr),
        exec i s = .next s) ∧
      (s.core.job = .none → s.core.err = .none →
        (s.core.mode = .hash → s.core.phase = .msg →
            exec .final s = .next { s with core := { s.core with job := .final } } ∧
              status { s.core with job := .final } = (status s.core ||| 1)) ∧
          (s.core.mode = .hmac → s.core.phase = .key →
            exec .hmacKeyEnd s = .next { s with core := { s.core with job := .keyEnd } } ∧
              status { s.core with job := .keyEnd } = (status s.core ||| 1)) ∧
          (s.core.mode = .hmac → s.core.phase = .msg →
            exec .hmacFinal s = .next { s with core := { s.core with job := .hFinal } } ∧
              status { s.core with job := .hFinal } = (status s.core ||| 1)) ∧
          (¬(s.core.mode = .hash ∧ s.core.phase = .msg) → exec .final s = .next seq) ∧
          (¬(s.core.mode = .hmac ∧ s.core.phase = .key) → exec .hmacKeyEnd s = .next seq) ∧
          (¬(s.core.mode = .hmac ∧ s.core.phase = .msg) → exec .hmacFinal s = .next seq))

/-- R238, R291: ABORT, in every state: the job is gone, H, K and the session are cleared, STATUS is 0, and the state is the
one the reset input gives. The block buffer and the engine's registers, which R59 leaves unspecified, are not compared. -/
def Obligations.AbortIsReset : Prop :=
  decode (.write 0x1 0x0000000F) = .abort ∧ ∀ s : State, ∃ t u,
    exec .abort s = .next t ∧ step { s with events := .reset :: s.events } = .next u ∧
      t = { u with core := { u.core with blockbuf := t.core.blockbuf, eng := t.core.eng } } ∧
      t.rdata = s.rdata ∧ t.draws = s.draws ∧ t.events = s.events ∧ t.core.job = .none ∧
      t.core.h = ⟨0, 0, 0, 0, 0⟩ ∧ t.core.mode = .none ∧ t.core.phase = .none ∧ t.core.err = .none ∧
      t.core.fill = 0 ∧ t.core.msglen = 0 ∧ t.core.keylen = 0 ∧ t.core.keyhash = false ∧
      (∀ i (hi : i < 64), t.core.key[i] = 0) ∧ status t.core = 0x00000000

/-! ## Errors (spec/60_exceptions.md) -/

/-- R252: while a job is in flight every CMD, DIN_WORD or DIN_BYTE write but ABORT records BUSY, unless an earlier error
stands, and has no other effect; the other writes change nothing, and a read leaves the core as it is. -/
def Obligations.WritesWhileBusyRecordBusy : Prop :=
  ∀ s : State, s.core.job ≠ .none →
    let t : State := { s with core := { s.core with err := if s.core.err = .none then .busy else s.core.err } }
    (∀ w : Word, w ≠ 0x0000000F → exec (.wrCmd w) s = .next t) ∧
      (∀ w : Word, exec (.wrDinWord w) s = .next t) ∧ (∀ w : Word, exec (.wrDinByte w) s = .next t) ∧
      exec .init s = .next t ∧ exec .final s = .next t ∧ exec .hmacInit s = .next t ∧
      exec .hmacKeyEnd s = .next t ∧ exec .hmacFinal s = .next t ∧
      (∀ (idx : BitVec 4) (w : Word), idx ≠ 0x1 → idx ≠ 0x3 → idx ≠ 0x4 →
        exec (decode (.write idx w)) s = .next s) ∧
      ∀ idx : BitVec 4, ∃ u, exec (decode (.read idx)) s = .next u ∧ u.core = s.core

/-- R260: the checks on a CMD write, in order: for every word, in every state. -/
def Obligations.CommandCheckOrder : Prop :=
  ∀ (w : Word) (s : State),
    exec (.wrCmd w) s =
      if w = 0x0000000F then exec .abort s
      else if s.core.job ≠ .none then
        .next { s with core := { s.core with err := if s.core.err = .none then .busy else s.core.err } }
      else if w ∉ ([0x00000001, 0x00000002, 0x00000003, 0x00000004, 0x00000005] : List Word) then
        .next { s with core := { s.core with err := if s.core.err = .none then .badCmd else s.core.err } }
      else if w = 0x00000001 then exec .init s
      else if w = 0x00000003 then exec .hmacInit s
      else if s.core.err ≠ .none then .next s
      else if w = 0x00000002 then
        if s.core.mode = .hash ∧ s.core.phase = .msg then .next { s with core := { s.core with job := .final } }
        else .next { s with core := { s.core with err := .seq } }
      else if w = 0x00000004 then
        if s.core.mode = .hmac ∧ s.core.phase = .key then .next { s with core := { s.core with job := .keyEnd } }
        else .next { s with core := { s.core with err := .seq } }
      else
        if s.core.mode = .hmac ∧ s.core.phase = .msg then .next { s with core := { s.core with job := .hFinal } }
        else .next { s with core := { s.core with err := .seq } }

/-- R261 with R173, R255: the checks on a data write, in order; a rejected or ignored write pushes no byte, and an accepted
one makes the stream longer by all its bytes and records no error. -/
def Obligations.DataWriteCheckOrder : Prop :=
  ∀ (i : Instr) (bs : List Byte) (s : State), isDataWrite i bs →
    let streamlen : CoreState → Nat := fun c =>
      if c.phase = .key ∧ c.keyhash = false then c.keylen.val else c.msglen
    if s.core.job ≠ .none then
      exec i s = .next { s with core := { s.core with err := if s.core.err = .none then .busy else s.core.err } }
    else if s.core.err ≠ .none then exec i s = .next s
    else if ¬(s.core.phase = .key ∨ s.core.phase = .msg) then
      exec i s = .next { s with core := { s.core with err := .seq } }
    else if streamlen s.core + bs.length > 2 ^ 61 - 1 then
      exec i s = .next { s with core := { s.core with err := .length } }
    else ∃ t, exec i s = .next t ∧ streamlen t.core = streamlen s.core + bs.length ∧ t.core.err = .none

/-- R256: with an error recorded and no job in flight, data writes and every command but INIT, HMAC_INIT and ABORT change
nothing. -/
def Obligations.ErrorStopsTheSession : Prop :=
  ∀ s : State, s.core.job = .none → s.core.err ≠ .none →
    (∀ w : Word, exec (.wrDinWord w) s = .next s) ∧ (∀ w : Word, exec (.wrDinByte w) s = .next s) ∧
      (∀ w : Word, decodeCmd w = none → exec (.wrCmd w) s = .next s) ∧
      exec .final s = .next s ∧ exec .hmacKeyEnd s = .next s ∧ exec .hmacFinal s = .next s

/-- R251, R257, R262: over every step, a recorded error stays as it is unless the step is the reset input or a CMD write of
INIT, HMAC_INIT or ABORT, and then it is cleared. -/
def Obligations.ErrorIsSticky : Prop :=
  ∀ s t : State, step s = .next t → s.core.err ≠ .none →
    t.core.err = s.core.err ∨
      (t.core.err = .none ∧
        ∃ rest, s.events = .reset :: rest ∨ s.events = commandEvent .init :: rest ∨
          s.events = commandEvent .hmacInit :: rest ∨ s.events = commandEvent .abort :: rest)

/-- R54, R181, R296: the instructions that make BUSY = 1: with no job and no error, FINAL, HMAC_KEY_END and HMAC_FINAL in the
session state that allows them, a data write that fills the block buffer, and one that brings key byte number 65. -/
def Obligations.WritesThatStartAJob : Prop :=
  ∀ (i : Instr) (s t : State), i.wf = true → s.core.job = .none → exec i s = .next t →
    (t.core.job ≠ .none ↔
      s.core.err = .none ∧
        ((i = .final ∧ s.core.mode = .hash ∧ s.core.phase = .msg) ∨
          (i = .hmacKeyEnd ∧ s.core.mode = .hmac ∧ s.core.phase = .key) ∨
          (i = .hmacFinal ∧ s.core.mode = .hmac ∧ s.core.phase = .msg) ∨
          ∃ bs, isDataWrite i bs ∧
            ((s.core.streamsToBuffer ∧ s.core.msglen + bs.length ≤ 2 ^ 61 - 1 ∧
                64 ≤ s.core.fill.val + bs.length) ∨
              (s.core.streamsToKey ∧ 64 < s.core.keylen.val + bs.length))))

/-- R254: of the instructions only INIT, HMAC_INIT and ABORT change (mode, phase), each to its own pair. -/
def Obligations.OnlySessionCommandsMoveTheSession : Prop :=
  ∀ (i : Instr) (s t : State), i.wf = true → exec i s = .next t →
    (t.core.mode = s.core.mode ∧ t.core.phase = s.core.phase) ∨
      (i = .init ∧ t.core.mode = .hash ∧ t.core.phase = .msg) ∨
      (i = .hmacInit ∧ t.core.mode = .hmac ∧ t.core.phase = .key) ∨
      (i = .abort ∧ t.core.mode = .none ∧ t.core.phase = .none)

/-- R30, R202, R236, R294: of the instructions only INIT, HMAC_INIT, ABORT and the data write with the 65th key byte change H,
and that write loads the IV. -/
def Obligations.WhichInstructionsChangeTheHash : Prop :=
  ∀ (i : Instr) (s t : State), i.wf = true → exec i s = .next t → t.core.h ≠ s.core.h →
    i ∈ startsOver ∨
      ((∃ bs, isDataWrite i bs) ∧ s.core.streamsToKey ∧ t.core.keyhash = true ∧ t.core.h = iv)

/-- R299: in RESULT, H and the phase stay until INIT, HMAC_INIT, ABORT or reset. The invariant rules out a job in flight
there. -/
def Obligations.ResultStaysReadable : Prop :=
  ∀ s t : State, s.core.Inv → s.core.phase = .result → step s = .next t →
    (∀ rest, s.events ≠ .reset :: rest ∧ s.events ≠ commandEvent .init :: rest ∧
      s.events ≠ commandEvent .hmacInit :: rest ∧ s.events ≠ commandEvent .abort :: rest) →
    t.core.h = s.core.h ∧ t.core.phase = .result ∧ t.core.mode = s.core.mode

/-! ## The byte path (spec/42_hash_stream.md R174 to R177, spec/43_hmac_controller.md R201, R202) -/

/-- R174 to R177, R78: an accepted data write in the buffer path appends its bytes to the buffered bytes; if that makes 64,
the 64 bytes become a BLOCK job and the rest stays buffered. Nothing else changes but the count and the length; the buffer's
bytes outside the written places stay. -/
def Obligations.DataWritesFillTheBlockBuffer : Prop :=
  ∀ (i : Instr) (bs : List Byte) (s : State),
    isDataWrite i bs → s.core.job = .none → s.core.err = .none → s.core.streamsToBuffer →
      s.core.msglen + bs.length ≤ 2 ^ 61 - 1 →
      ∃ t, exec i s = .next t ∧
        (if s.core.fill.val + bs.length < 64 then
            t.core.job = .none ∧ t.core.tail = s.core.tail ++ bs ∧ t.core.fill.val = s.core.fill.val + bs.length
          else
            t.core.job = .block (words ((s.core.tail ++ bs).take 64)) ∧ t.core.tail = (s.core.tail ++ bs).drop 64 ∧
              t.core.fill.val = s.core.fill.val + bs.length - 64) ∧
        (∀ k (hk : k < 64), (∀ n < bs.length, k ≠ (s.core.fill.val + n) % 64) →
          t.core.blockbuf[k] = s.core.blockbuf[k]) ∧
        t = { s with
              core :=
                { s.core with
                  blockbuf := t.core.blockbuf
                  fill := t.core.fill
                  job := t.core.job
                  msglen := s.core.msglen + bs.length } }

/-- R174, R176, R177, R201: a data write whose key bytes all fit in K. It starts no job and changes K's next bytes and keylen
only. -/
def Obligations.DataWritesFillTheKeyBuffer : Prop :=
  ∀ (i : Instr) (bs : List Byte) (s : State),
    isDataWrite i bs → s.core.job = .none → s.core.err = .none → s.core.streamsToKey →
      s.core.keylen.val + bs.length ≤ 64 →
      ∃ t, exec i s = .next t ∧ t.core.keylen.val = s.core.keylen.val + bs.length ∧
        t.core.keyBytes = s.core.keyBytes ++ bs ∧
        (∀ k (hk : k < 64), (k < s.core.keylen.val ∨ s.core.keylen.val + bs.length ≤ k) →
          t.core.key[k] = s.core.key[k]) ∧
        t = { s with core := { s.core with key := t.core.key, keylen := t.core.keylen } }

/-- R78, R174 to R177, R201, R202: a data write that brings key byte number 65. K is full, H is the IV, the first 64 key bytes
are a BLOCK job, and the bytes after them are in the block buffer. -/
def Obligations.SixtyFifthKeyByteStartsTheKeyHash : Prop :=
  ∀ (i : Instr) (bs : List Byte) (s : State),
    isDataWrite i bs → s.core.job = .none → s.core.err = .none → s.core.streamsToKey →
      64 < s.core.keylen.val + bs.length →
      ∃ t, exec i s = .next t ∧ t.core.key.toList = (s.core.keyBytes ++ bs).take 64 ∧
        t.core.tail = (s.core.keyBytes ++ bs).drop 64 ∧ t.core.fill.val = s.core.keylen.val + bs.length - 64 ∧
        (∀ k (hk : k < 64), t.core.fill.val ≤ k → t.core.blockbuf[k] = s.core.blockbuf[k]) ∧
        t = { s with
              core :=
                { s.core with
                  key := t.core.key
                  keylen := 64
                  keyhash := true
                  h := iv
                  job := .block (words ((s.core.keyBytes ++ bs).take 64))
                  blockbuf := t.core.blockbuf
                  fill := t.core.fill
                  msglen := s.core.keylen.val + bs.length } }

/-- R103, R177: DIN_BYTE takes bits 7:0 only. -/
def Obligations.DinByteIgnoresUpperBits : Prop :=
  ∀ (w w' : Word) (s : State),
    w.extractLsb' 0 8 = w'.extractLsb' 0 8 → exec (.wrDinByte w) s = exec (.wrDinByte w') s

/-! ## Byte order (spec/20_memory.md) -/

/-- R71: the words of a 64-byte sequence, each word's first byte the most significant. -/
def Obligations.BlockWordsAreBigEndian : Prop :=
  ∀ (s : List Byte) (hs : s.length = 64) (j : Nat) (hj : j < 16),
    (words s)[j].toNat =
      s[4 * j].toNat * 2 ^ 24 + s[4 * j + 1].toNat * 2 ^ 16 + s[4 * j + 2].toNat * 2 ^ 8 + s[4 * j + 3].toNat

/-- R70: sixteen DIN_WORD writes into an empty buffer make the block of exactly the words written. -/
def Obligations.WholeWordsAreBlockWords : Prop :=
  ∀ blk : Block, words (blk.toList.flatMap dinWordBytes) = blk

/-- R73, R172: the digest is 20 bytes, and byte 4i + k is Hi[31 − 8k : 24 − 8k]. -/
def Obligations.DigestSerialization : Prop :=
  ∀ h : Hash, (ser h).length = 20 ∧
    ∀ (i k : Nat), i < 5 → k < 4 →
      (ser h)[4 * i + k]? = some (([h.h0, h.h1, h.h2, h.h3, h.h4].getD i 0).extractLsb' (24 - 8 * k) 8)

/-! ## The compression engine (spec/41_compression_engine.md) -/

/-- R21: rotation left, as the bit rotation of the library. -/
def Obligations.RotlIsRotation : Prop :=
  ∀ (x : Word) (n : Nat), 0 < n → n < 32 → rotl x n = x.rotateLeft n

/-- R131, R132: the message schedule. -/
def Obligations.ScheduleRecurrence : Prop :=
  ∀ blk : Block, (∀ t (ht : t < 16), (expand blk)[t] = blk[t]) ∧
    ∀ t (_ : 16 ≤ t) (ht : t < 80),
      (expand blk)[t] =
        rotl ((expand blk)[t - 3] ^^^ (expand blk)[t - 8] ^^^ (expand blk)[t - 14] ^^^ (expand blk)[t - 16]) 1

/-- R142: the 16-word circular window gives the same schedule words. -/
def Obligations.WindowGivesTheSameSchedule : Prop :=
  ∀ (blk : Block) (t : Nat) (ht : t < 80), windowWord blk t = (expand blk)[t]

/-- R134, R135, R136: the three mixing functions, bit by bit: choice, parity, majority. -/
def Obligations.MixingFunctionsBitwise : Prop :=
  ∀ (b c d : Word) (k : Nat), k < 32 →
    (fCh b c d).getLsbD k = (if b.getLsbD k then c.getLsbD k else d.getLsbD k) ∧
      (fParity b c d).getLsbD k = ((b.getLsbD k ^^ c.getLsbD k) ^^ d.getLsbD k) ∧
      (fMaj b c d).getLsbD k =
        decide (2 ≤ (b.getLsbD k).toNat + (c.getLsbD k).toNat + (d.getLsbD k).toNat)

/-- R133, R137, R138: a round, with the mixing function and constant of its stage; no round at t ≥ 80; C's rotation by 30 is a
right rotation by 2. -/
def Obligations.RoundFormula : Prop :=
  (∀ x : Word, rotl x 30 = x.rotateRight 2) ∧ ∀ (t : Nat) (wt : Word) (r : Work),
    roundAt t wt r =
      if t < 80 then
        { a :=
            rotl r.a 5 +
              (if t < 20 then (r.b &&& r.c) ||| (~~~r.b &&& r.d)
                else if t < 40 then r.b ^^^ r.c ^^^ r.d
                else if t < 60 then (r.b &&& r.c) ||| (r.b &&& r.d) ||| (r.c &&& r.d)
                else r.b ^^^ r.c ^^^ r.d) +
              r.e + wt +
              (if t < 20 then 0x5A827999 else if t < 40 then 0x6ED9EBA1 else if t < 60 then 0x8F1BBCDC
                else 0xCA62C1D6)
          b := r.a
          c := rotl r.b 30
          d := r.c
          e := r.d }
      else r

/-- R34, R130, R139, R140, R141: the engine's micro-sequence: t advances by exactly 1 up to 80, W is the schedule, the
registers are the 80 rounds from LOAD, and UPDATE adds them to H word by word, which is the compression function. -/
def Obligations.MicroSequenceIsCompress : Prop :=
  (∀ g : Engine, g.t.val < 80 → g.tick.t.val = g.t.val + 1 ∧ g.tick.w = g.w) ∧
    ∀ (h : Hash) (blk : Block),
      (Engine.run h blk).t = 80 ∧ (Engine.run h blk).w = expand blk ∧
        (Engine.run h blk).work =
          (List.range 80).foldl (fun r t => roundAt t ((expand blk).getD t 0) r) ⟨h.h0, h.h1, h.h2, h.h3, h.h4⟩ ∧
        compress h blk =
          { h0 := h.h0 + (Engine.run h blk).work.a
            h1 := h.h1 + (Engine.run h blk).work.b
            h2 := h.h2 + (Engine.run h blk).work.c
            h3 := h.h3 + (Engine.run h blk).work.d
            h4 := h.h4 + (Engine.run h blk).work.e }

/-! ## Padding (spec/42_hash_stream.md R170, R171) -/

/-- R72, R170: the padded tail, its length, and the length field that never wraps. -/
def Obligations.PaddingShape : Prop :=
  ∀ (tail : List Byte) (len : Nat), tail.length < 64 → len ≤ 2 ^ 61 - 1 →
    pad tail len =
        tail ++ [0x80] ++ List.replicate (if tail.length ≤ 55 then 55 - tail.length else 119 - tail.length) 0 ++
          be64 (BitVec.ofNat 64 (8 * len)) ∧
      (pad tail len).length = (if tail.length ≤ 55 then 64 else 128) ∧
      (BitVec.ofNat 64 (8 * len)).toNat = 8 * len

/-- R171: Finish compresses the one or two blocks of the padded tail, in order; for the outer HMAC stream (R208) the one block
inner ‖ 0x80 ‖ 0^35 ‖ be64(672). -/
def Obligations.FinishCompressesThePaddedTail : Prop :=
  (∀ (h : Hash) (tail : List Byte) (len : Nat), tail.length < 64 →
      finish h tail len =
        if tail.length ≤ 55 then compress h (words (pad tail len))
        else compress (compress h (words ((pad tail len).take 64))) (words ((pad tail len).drop 64))) ∧
    ∀ h inner : Hash,
      finish h (ser inner) 84 =
        compress h (words (ser inner ++ [0x80] ++ List.replicate 35 0 ++ be64 (BitVec.ofNat 64 672)))

/-! ## Completions (spec/41 R144, spec/42 R180, spec/43 R204, R208) -/

/-- R143, R144: BLOCK completion. Only H, the job and the engine's internal registers change. -/
def Obligations.BlockCompletion : Prop :=
  ∀ (s : State) (blk : Block) (rest : List Event),
    s.core.job = .block blk → s.events = .engine :: rest →
      ∃ t, step s = .next t ∧
        t = { s with
              core := { s.core with h := compress s.core.h blk, job := .none, eng := t.core.eng }
              events := rest }

/-- R143, R180: FINAL completion, one or two compressions. -/
def Obligations.FinalCompletion : Prop :=
  ∀ (s : State) (rest : List Event), s.core.job = .final → s.events = .engine :: rest →
    (padBlocks s.core.tail s.core.msglen).length = (if s.core.fill.val ≤ 55 then 1 else 2) ∧
    ∃ t, step s = .next t ∧
      t = { s with
            core :=
              { s.core with
                h := finish s.core.h s.core.tail s.core.msglen
                fill := 0
                phase := .result
                job := .none
                eng := t.core.eng }
            events := rest }

/-- R143, R204, R206: HMAC_KEY_END completion, for a key kept as it is and for a hashed key; the hashed key takes one or two
compressions before the one of the inner pad block. -/
def Obligations.KeyEndCompletion : Prop :=
  ∀ (s : State) (rest : List Event), s.core.job = .keyEnd → s.events = .engine :: rest →
    (s.core.keyhash = true →
      (padBlocks s.core.tail s.core.msglen).length = (if s.core.fill.val ≤ 55 then 1 else 2)) ∧
    ∃ t, step s = .next t ∧
      t.core.key.toList =
        (if s.core.keyhash = true then
            ser (finish s.core.h s.core.tail s.core.msglen) ++ List.replicate 44 0
          else s.core.key.toList) ∧
      t = { s with
            core :=
              { s.core with
                key := t.core.key
                h := compress iv (words (t.core.key.toList.map (· ^^^ 0x36)))
                msglen := 64
                fill := 0
                phase := .msg
                job := .none
                eng := t.core.eng }
            events := rest }

/-- R143, R206, R208: HMAC_FINAL completion: one or two inner compressions, the outer pad block, one outer final block. -/
def Obligations.HmacFinalCompletion : Prop :=
  ∀ (s : State) (rest : List Event), s.core.job = .hFinal → s.events = .engine :: rest →
    (padBlocks s.core.tail s.core.msglen).length = (if s.core.fill.val ≤ 55 then 1 else 2) ∧
    (padBlocks (ser (finish s.core.h s.core.tail s.core.msglen)) 84).length = 1 ∧
    ∃ t, step s = .next t ∧
      t = { s with
            core :=
              { s.core with
                h :=
                  finish (compress iv (words (s.core.key.toList.map (· ^^^ 0x5C))))
                    (ser (finish s.core.h s.core.tail s.core.msglen)) 84
                fill := 0
                phase := .result
                job := .none
                eng := t.core.eng }
            events := rest }

/-! ## Sessions (spec/42_hash_stream.md R183, spec/43_hmac_controller.md R209) -/

/-- R183: whatever the state before it, a session of INIT, data writes in any split with reads and ENGINE steps anywhere
among them, FINAL and its completion, that ends with no error, has the digest of exactly the delivered bytes in H. -/
def Obligations.HashSessionGivesTheDigest : Prop :=
  ∀ (s t : State) (body polls : List Event),
    body.all Event.isCommandFree = true → polls.all Event.isCommandFree = true →
      s.events = commandEvent .init :: body ++ commandEvent .final :: polls ++ [.engine] →
      Host.Core.run Sys2Proof.core s.events.length s = .next t → t.core.err = .none →
      t.core.h = digest (deliveredBytes body) ∧ status t.core = 0x00000036 ∧ t.core.resultValid

/-- R209, R205: the same for an HMAC session: HMAC_INIT, key bytes, HMAC_KEY_END, message bytes, HMAC_FINAL and its
completion. -/
def Obligations.HmacSessionGivesTheCode : Prop :=
  ∀ (s t : State) (keyEvs msgEvs polls : List Event),
    keyEvs.all Event.isCommandFree = true → msgEvs.all Event.isCommandFree = true →
      polls.all Event.isCommandFree = true →
      s.events =
        commandEvent .hmacInit :: keyEvs ++ commandEvent .hmacKeyEnd :: msgEvs ++ commandEvent .hmacFinal :: polls ++
          [.engine] →
      Host.Core.run Sys2Proof.core s.events.length s = .next t → t.core.err = .none →
      t.core.h = hmac (deliveredBytes keyEvs) (deliveredBytes msgEvs) ∧
        status t.core = (if (deliveredBytes keyEvs).length ≤ 64 then 0x0000003A else 0x0000007A) ∧ t.core.resultValid

/-! ## Addresses and host scripts -/

/-- R16, R35, R75, R79: CORE_BASE is 64-byte aligned; each of the four byte addresses of a slot selects it, and no address
outside the window selects a slot. -/
def Obligations.WindowAddresses : Prop :=
  Config.coreBase % 64 = 0 ∧
    (∀ (idx : BitVec 4) (k : Nat), k < 4 → slotOfAddr (Config.coreBase + 4 * idx.toNat + k) = some idx) ∧
    ∀ addr : Nat, (addr < Config.coreBase ∨ Config.coreBase + 64 ≤ addr) → slotOfAddr addr = none

/-- R111, R112: what the statements of a host script are on the bus. -/
def Obligations.HostScriptExpansions : Prop :=
  (∀ w, (expandStmt (.pushW w)).map decode = [.wrDinWord w]) ∧
    (∀ b : Byte, (expandStmt (.pushB b)).map decode = [.wrDinByte (b.setWidth 32)]) ∧
    (∀ c, (expandStmt (.cmd c)).map decode = [c.instr]) ∧
    (∀ n, (expandStmt (.wait n)).map decode = List.replicate (n + 1) .rdStatus) ∧
    (expandStmt .rdh).map decode = [.rdH0, .rdH1, .rdH2, .rdH3, .rdH4]
end

