-- ==== Sys2Proof/Laws/State.lean ====
section
/-! SUPPORT. Every field after every named update of the state, true by rfl. -/

namespace Sys2Proof.Machine

/-! ## Updates of State -/

@[simp] theorem State.mapCore_core (s : State) (f : CoreState → CoreState) :
    (s.mapCore f).core = f s.core := rfl

@[simp] theorem State.mapCore_rdata (s : State) (f : CoreState → CoreState) :
    (s.mapCore f).rdata = s.rdata := rfl

@[simp] theorem State.mapCore_draws (s : State) (f : CoreState → CoreState) :
    (s.mapCore f).draws = s.draws := rfl

@[simp] theorem State.mapCore_events (s : State) (f : CoreState → CoreState) :
    (s.mapCore f).events = s.events := rfl

@[simp] theorem State.withRdata_core (s : State) (v : Word) :
    (s.withRdata v).core = s.core := rfl

@[simp] theorem State.withRdata_rdata (s : State) (v : Word) :
    (s.withRdata v).rdata = v := rfl

@[simp] theorem State.withRdata_draws (s : State) (v : Word) :
    (s.withRdata v).draws = s.draws := rfl

@[simp] theorem State.withRdata_events (s : State) (v : Word) :
    (s.withRdata v).events = s.events := rfl

@[simp] theorem State.readZero_core (s : State) :
    s.readZero.core = s.core := rfl

@[simp] theorem State.readZero_rdata (s : State) :
    s.readZero.rdata = 0 := rfl

@[simp] theorem State.readZero_draws (s : State) :
    s.readZero.draws = s.draws := rfl

@[simp] theorem State.readZero_events (s : State) :
    s.readZero.events = s.events := rfl

@[simp] theorem resetStep_core (s : State) :
    (resetStep s).core = CoreState.reset := rfl

@[simp] theorem resetStep_rdata (s : State) :
    (resetStep s).rdata = s.rdata := rfl

@[simp] theorem resetStep_draws (s : State) :
    (resetStep s).draws = s.draws := rfl

@[simp] theorem resetStep_events (s : State) :
    (resetStep s).events = s.events := rfl

@[simp] theorem engineStep_core (s : State) :
    (engineStep s).core = s.core.complete := rfl

@[simp] theorem engineStep_rdata (s : State) :
    (engineStep s).rdata = s.rdata := rfl

@[simp] theorem engineStep_draws (s : State) :
    (engineStep s).draws = s.draws := rfl

@[simp] theorem engineStep_events (s : State) :
    (engineStep s).events = s.events := rfl

@[simp] theorem place_core (s : State) (txn : Txn) :
    (place s txn).core = s.core := rfl

@[simp] theorem place_rdata (s : State) (txn : Txn) :
    (place s txn).rdata = s.rdata := rfl

@[simp] theorem place_draws (s : State) (txn : Txn) :
    (place s txn).draws = s.draws := rfl

@[simp] theorem place_events (s : State) (txn : Txn) :
    (place s txn).events = .host txn :: s.events := rfl

/-! ## Updates of CoreState -/

@[simp] theorem CoreState.startJob_h (c : CoreState) (j : Job) :
    (c.startJob j).h = c.h := rfl

@[simp] theorem CoreState.startJob_eng (c : CoreState) (j : Job) :
    (c.startJob j).eng = c.eng := rfl

@[simp] theorem CoreState.startJob_mode (c : CoreState) (j : Job) :
    (c.startJob j).mode = c.mode := rfl

@[simp] theorem CoreState.startJob_phase (c : CoreState) (j : Job) :
    (c.startJob j).phase = c.phase := rfl

@[simp] theorem CoreState.startJob_job (c : CoreState) (j : Job) :
    (c.startJob j).job = j := rfl

@[simp] theorem CoreState.startJob_err (c : CoreState) (j : Job) :
    (c.startJob j).err = c.err := rfl

@[simp] theorem CoreState.startJob_blockbuf (c : CoreState) (j : Job) :
    (c.startJob j).blockbuf = c.blockbuf := rfl

@[simp] theorem CoreState.startJob_fill (c : CoreState) (j : Job) :
    (c.startJob j).fill = c.fill := rfl

@[simp] theorem CoreState.startJob_msglen (c : CoreState) (j : Job) :
    (c.startJob j).msglen = c.msglen := rfl

@[simp] theorem CoreState.startJob_key (c : CoreState) (j : Job) :
    (c.startJob j).key = c.key := rfl

@[simp] theorem CoreState.startJob_keylen (c : CoreState) (j : Job) :
    (c.startJob j).keylen = c.keylen := rfl

@[simp] theorem CoreState.startJob_keyhash (c : CoreState) (j : Job) :
    (c.startJob j).keyhash = c.keyhash := rfl

@[simp] theorem CoreState.startSession_h (c : CoreState) (m : Mode) (p : Phase) :
    (c.startSession m p).h = iv := rfl

@[simp] theorem CoreState.startSession_eng (c : CoreState) (m : Mode) (p : Phase) :
    (c.startSession m p).eng = c.eng := rfl

@[simp] theorem CoreState.startSession_mode (c : CoreState) (m : Mode) (p : Phase) :
    (c.startSession m p).mode = m := rfl

@[simp] theorem CoreState.startSession_phase (c : CoreState) (m : Mode) (p : Phase) :
    (c.startSession m p).phase = p := rfl

@[simp] theorem CoreState.startSession_job (c : CoreState) (m : Mode) (p : Phase) :
    (c.startSession m p).job = c.job := rfl

@[simp] theorem CoreState.startSession_err (c : CoreState) (m : Mode) (p : Phase) :
    (c.startSession m p).err = .none := rfl

@[simp] theorem CoreState.startSession_blockbuf (c : CoreState) (m : Mode) (p : Phase) :
    (c.startSession m p).blockbuf = Vector.replicate 64 0 := rfl

@[simp] theorem CoreState.startSession_fill (c : CoreState) (m : Mode) (p : Phase) :
    (c.startSession m p).fill = 0 := rfl

@[simp] theorem CoreState.startSession_msglen (c : CoreState) (m : Mode) (p : Phase) :
    (c.startSession m p).msglen = 0 := rfl

@[simp] theorem CoreState.startSession_key (c : CoreState) (m : Mode) (p : Phase) :
    (c.startSession m p).key = Vector.replicate 64 0 := rfl

@[simp] theorem CoreState.startSession_keylen (c : CoreState) (m : Mode) (p : Phase) :
    (c.startSession m p).keylen = 0 := rfl

@[simp] theorem CoreState.startSession_keyhash (c : CoreState) (m : Mode) (p : Phase) :
    (c.startSession m p).keyhash = false := rfl

@[simp] theorem CoreState.compressBlock_h (c : CoreState) (blk : Block) :
    (c.compressBlock blk).h = updateHash c.h (Engine.run c.h blk).work := rfl

@[simp] theorem CoreState.compressBlock_eng (c : CoreState) (blk : Block) :
    (c.compressBlock blk).eng = Engine.run c.h blk := rfl

@[simp] theorem CoreState.compressBlock_mode (c : CoreState) (blk : Block) :
    (c.compressBlock blk).mode = c.mode := rfl

@[simp] theorem CoreState.compressBlock_phase (c : CoreState) (blk : Block) :
    (c.compressBlock blk).phase = c.phase := rfl

@[simp] theorem CoreState.compressBlock_job (c : CoreState) (blk : Block) :
    (c.compressBlock blk).job = c.job := rfl

@[simp] theorem CoreState.compressBlock_err (c : CoreState) (blk : Block) :
    (c.compressBlock blk).err = c.err := rfl

@[simp] theorem CoreState.compressBlock_blockbuf (c : CoreState) (blk : Block) :
    (c.compressBlock blk).blockbuf = c.blockbuf := rfl

@[simp] theorem CoreState.compressBlock_fill (c : CoreState) (blk : Block) :
    (c.compressBlock blk).fill = c.fill := rfl

@[simp] theorem CoreState.compressBlock_msglen (c : CoreState) (blk : Block) :
    (c.compressBlock blk).msglen = c.msglen := rfl

@[simp] theorem CoreState.compressBlock_key (c : CoreState) (blk : Block) :
    (c.compressBlock blk).key = c.key := rfl

@[simp] theorem CoreState.compressBlock_keylen (c : CoreState) (blk : Block) :
    (c.compressBlock blk).keylen = c.keylen := rfl

@[simp] theorem CoreState.compressBlock_keyhash (c : CoreState) (blk : Block) :
    (c.compressBlock blk).keyhash = c.keyhash := rfl

@[simp] theorem CoreState.completeFinal_h (c : CoreState) :
    c.completeFinal.h = (c.compressBlocks (padBlocks c.tail c.msglen)).h := rfl

@[simp] theorem CoreState.completeFinal_eng (c : CoreState) :
    c.completeFinal.eng = (c.compressBlocks (padBlocks c.tail c.msglen)).eng := rfl

@[simp] theorem CoreState.completeFinal_phase (c : CoreState) :
    c.completeFinal.phase = .result := rfl

@[simp] theorem CoreState.completeFinal_fill (c : CoreState) :
    c.completeFinal.fill = 0 := rfl

/-! ## The reset values of R59 -/

@[simp] theorem CoreState.reset_h  :
    CoreState.reset.h = ⟨0, 0, 0, 0, 0⟩ := rfl

@[simp] theorem CoreState.reset_mode  :
    CoreState.reset.mode = .none := rfl

@[simp] theorem CoreState.reset_phase  :
    CoreState.reset.phase = .none := rfl

@[simp] theorem CoreState.reset_job  :
    CoreState.reset.job = .none := rfl

@[simp] theorem CoreState.reset_err  :
    CoreState.reset.err = .none := rfl

@[simp] theorem CoreState.reset_fill  :
    CoreState.reset.fill = 0 := rfl

@[simp] theorem CoreState.reset_msglen  :
    CoreState.reset.msglen = 0 := rfl

@[simp] theorem CoreState.reset_key  :
    CoreState.reset.key = Vector.replicate 64 0 := rfl

@[simp] theorem CoreState.reset_keylen  :
    CoreState.reset.keylen = 0 := rfl

@[simp] theorem CoreState.reset_keyhash  :
    CoreState.reset.keyhash = false := rfl

end Sys2Proof.Machine
end

