-- ==== Sys2Proof/Laws/Ops.lean ====
section
/-! SUPPORT. What each shared operation can do, once, for citing in place of unfolding it. -/

namespace Sys2Proof.Machine

/-! ## Errors (R251) -/

theorem CoreState.raise_eq (c : CoreState) (code : ErrCode) :
    c.raise code = { c with err := if c.err = .none then code else c.err } := by
  unfold CoreState.raise
  split <;> rfl

@[simp] theorem CoreState.raise_none (c : CoreState) (code : ErrCode) (h : c.err = .none) :
    c.raise code = { c with err := code } := by
  simp [CoreState.raise, h]

@[simp] theorem CoreState.raise_some (c : CoreState) (code : ErrCode) (h : c.err ≠ .none) : c.raise code = c := by
  simp [CoreState.raise, h]

/-! ## The verdict of the checks -/

@[simp] theorem CoreState.guarded_accept (c : CoreState) (f : CoreState → CoreState) :
    c.guarded .accept f = f c := rfl

@[simp] theorem CoreState.guarded_reject (c : CoreState) (code : ErrCode) (f : CoreState → CoreState) :
    c.guarded (.reject code) f = c.raise code := rfl

@[simp] theorem CoreState.guarded_ignore (c : CoreState) (f : CoreState → CoreState) :
    c.guarded .ignore f = c := rfl

/-- R260, step 1. -/
@[simp] theorem cmdCheck_abort (c : CoreState) : cmdCheck c (some .abort) = .accept := rfl

/-- R260, step 2. -/
theorem cmdCheck_busy (c : CoreState) (cmd : Option Command) (hc : cmd ≠ some .abort) (hj : c.job ≠ .none) :
    cmdCheck c cmd = .reject .busy := by
  rcases cmd with _ | cmd
  · simp [cmdCheck, hj]
  · cases cmd <;> simp_all [cmdCheck]

/-- R260, step 3. -/
theorem cmdCheck_reserved (c : CoreState) (hj : c.job = .none) : cmdCheck c none = .reject .badCmd := by
  simp [cmdCheck, hj]

/-- R260, step 4. -/
theorem cmdCheck_startsSession (c : CoreState) (cmd : Command) (hj : c.job = .none)
    (hs : startsSession cmd = true) : cmdCheck c (some cmd) = .accept := by
  cases cmd <;> simp_all [cmdCheck, startsSession]

/-- R260, steps 5 to 7, for FINAL, HMAC_KEY_END and HMAC_FINAL. -/
theorem cmdCheck_finishing (c : CoreState) (cmd : Command) (hj : c.job = .none)
    (hs : startsSession cmd = false) (ha : cmd ≠ .abort) :
    cmdCheck c (some cmd) =
      if c.err ≠ .none then .ignore
      else if cmdAllowed cmd c.mode c.phase = true then .accept else .reject .seq := by
  cases cmd <;> simp_all [cmdCheck, startsSession]

/-- R261, step 1. -/
theorem dinCheck_busy (c : CoreState) (n : Nat) (hj : c.job ≠ .none) : dinCheck c n = .reject .busy := by
  simp [dinCheck, hj]

/-- R261, steps 2 to 5, with no job in flight. -/
theorem dinCheck_idle (c : CoreState) (n : Nat) (hj : c.job = .none) :
    dinCheck c n =
      if c.err ≠ .none then .ignore
      else if ¬(c.phase = .key ∨ c.phase = .msg) then .reject .seq
      else if c.streamlen + n > Config.maxLen then .reject .length else .accept := by
  simp [dinCheck, hj]

/-- R261: exactly when a data write is accepted. -/
theorem dinCheck_accept_iff (c : CoreState) (n : Nat) :
    dinCheck c n = .accept ↔
      c.job = .none ∧ c.err = .none ∧ (c.phase = .key ∨ c.phase = .msg) ∧ c.streamlen + n ≤ Config.maxLen := by
  unfold dinCheck
  split
  · simp_all
  · split
    · simp_all
    · split
      · simp_all
      · split
        · simp_all
        · simp_all
          exact or_iff_not_imp_left.mpr ‹_›

/-! ## The byte path: what no pushed byte changes -/

/-- R175, R201, R202: the fields a pushed byte never touches. -/
theorem CoreState.pushByte_frame (c : CoreState) (b : Byte) :
    (c.pushByte b).eng = c.eng ∧ (c.pushByte b).mode = c.mode ∧ (c.pushByte b).phase = c.phase ∧
      (c.pushByte b).err = c.err := by
  unfold CoreState.pushByte CoreState.keyPushByte CoreState.msgPushByte
  split <;> split <;> simp

/-- The same for all the bytes of a write. -/
theorem CoreState.pushBytes_frame (bs : List Byte) :
    ∀ c : CoreState, (c.pushBytes bs).eng = c.eng ∧ (c.pushBytes bs).mode = c.mode ∧
      (c.pushBytes bs).phase = c.phase ∧ (c.pushBytes bs).err = c.err := by
  induction bs with
  | nil => intro c; exact ⟨rfl, rfl, rfl, rfl⟩
  | cons b bs ih =>
    intro c
    obtain ⟨h1, h2, h3, h4⟩ := ih (c.pushByte b)
    obtain ⟨g1, g2, g3, g4⟩ := c.pushByte_frame b
    exact ⟨h1.trans g1, h2.trans g2, h3.trans g3, h4.trans g4⟩

@[simp] theorem CoreState.pushBytes_nil (c : CoreState) : c.pushBytes [] = c := rfl

@[simp] theorem CoreState.pushBytes_cons (c : CoreState) (b : Byte) (bs : List Byte) :
    c.pushBytes (b :: bs) = (c.pushByte b).pushBytes bs := rfl

/-- R174: KEY phase of a key not hashed yet. -/
theorem CoreState.pushByte_key (c : CoreState) (b : Byte) (hp : c.phase = .key) (hk : c.keyhash = false) :
    c.pushByte b = c.keyPushByte b := by
  simp [CoreState.pushByte, hp, hk]

/-- R174: every other accepted byte. -/
theorem CoreState.pushByte_msg (c : CoreState) (b : Byte) (h : ¬(c.phase = .key ∧ c.keyhash = false)) :
    c.pushByte b = c.msgPushByte b := by
  simp only [CoreState.pushByte, if_neg h]

/-! ## Compressions: only H and the engine's registers change -/

/-- R130, R141: the frame of a sequence of compressions. -/
theorem CoreState.compressBlocks_frame (blks : List Block) :
    ∀ c : CoreState, c.compressBlocks blks =
      { c with h := (c.compressBlocks blks).h, eng := (c.compressBlocks blks).eng } := by
  induction blks with
  | nil => intro c; rfl
  | cons blk blks ih => intro c; exact ih (c.compressBlock blk)

@[simp] theorem CoreState.compressBlocks_nil (c : CoreState) : c.compressBlocks [] = c := rfl

@[simp] theorem CoreState.compressBlocks_cons (c : CoreState) (blk : Block) (blks : List Block) :
    c.compressBlocks (blk :: blks) = (c.compressBlock blk).compressBlocks blks := rfl

/-! ## The completion step, by job -/

@[simp] theorem CoreState.complete_idle (c : CoreState) (h : c.job = .none) : c.complete = c := by
  simp [CoreState.complete, h]

theorem CoreState.complete_block (c : CoreState) (blk : Block) (h : c.job = .block blk) :
    c.complete = { c.completeBlock blk with job := .none } := by
  simp [CoreState.complete, h]

theorem CoreState.complete_final (c : CoreState) (h : c.job = .final) :
    c.complete = { c.completeFinal with job := .none } := by
  simp [CoreState.complete, h]

theorem CoreState.complete_keyEnd (c : CoreState) (h : c.job = .keyEnd) :
    c.complete = { c.completeKeyEnd with job := .none } := by
  simp [CoreState.complete, h]

theorem CoreState.complete_hFinal (c : CoreState) (h : c.job = .hFinal) :
    c.complete = { c.completeHFinal with job := .none } := by
  simp [CoreState.complete, h]

/-! ## What a completion leaves: H and the engine's registers are new values, the rest is named

These forms hold the new H and engine registers as variables, so that no later proof compares a compression with anything
by unfolding it. -/

theorem CoreState.compressBlock_form (c : CoreState) (blk : Block) :
    ∃ h' e', c.compressBlock blk = { c with h := h', eng := e' } :=
  ⟨_, _, rfl⟩

theorem CoreState.compressBlocks_form (c : CoreState) (blks : List Block) :
    ∃ h' e', c.compressBlocks blks = { c with h := h', eng := e' } :=
  ⟨_, _, c.compressBlocks_frame blks⟩

/-- R180 -/
theorem CoreState.completeFinal_form (c : CoreState) :
    ∃ h' e', c.completeFinal = { c with h := h', eng := e', fill := 0, phase := .result } := by
  obtain ⟨h', e', h⟩ := c.compressBlocks_form (padBlocks c.tail c.msglen)
  exact ⟨h', e', by rw [CoreState.completeFinal, h]⟩

/-- R204, first part: K changes only if the key was hashed. -/
theorem CoreState.settleKey_form (c : CoreState) :
    ∃ h' e' k', c.settleKey = { c with h := h', eng := e', key := k' } ∧ (c.keyhash = false → k' = c.key) := by
  unfold CoreState.settleKey
  split
  · obtain ⟨h', e', h⟩ := c.compressBlocks_form (padBlocks c.tail c.msglen)
    exact ⟨h', e', digestKey h', by rw [h], by simp_all⟩
  · exact ⟨c.h, c.eng, c.key, rfl, fun _ => rfl⟩

/-- R204 -/
theorem CoreState.completeKeyEnd_form (c : CoreState) :
    ∃ h' e' k', c.completeKeyEnd =
        { c with h := h', eng := e', key := k', msglen := 64, fill := 0, phase := .msg } ∧
      (c.keyhash = false → k' = c.key) := by
  obtain ⟨h1, e1, k1, hs, hk⟩ := c.settleKey_form
  obtain ⟨h2, e2, hb⟩ := ({ c with h := iv, eng := e1, key := k1 } : CoreState).compressBlock_form
    (padBlock k1 innerPadByte)
  exact ⟨h2, e2, k1, by simp only [CoreState.completeKeyEnd, hs, hb], hk⟩

/-- R208 -/
theorem CoreState.completeHFinal_form (c : CoreState) :
    ∃ h' e', c.completeHFinal = { c with h := h', eng := e', fill := 0, phase := .result } := by
  obtain ⟨h1, e1, ha⟩ := c.compressBlocks_form (padBlocks c.tail c.msglen)
  obtain ⟨h2, e2, hb⟩ := ({ c with h := iv, eng := e1 } : CoreState).compressBlock_form
    (padBlock c.key outerPadByte)
  obtain ⟨h3, e3, hc⟩ := ({ c with h := h2, eng := e2 } : CoreState).compressBlocks_form
    (padBlocks (ser h1) (64 + 20))
  exact ⟨h3, e3, by simp only [CoreState.completeHFinal, ha, hb, hc]⟩

/-- R143: everything the ENGINE's completion step can do. -/
theorem CoreState.complete_cases (c : CoreState) :
    (c.job = .none ∧ c.complete = c) ∨
      (∃ blk h' e', c.job = .block blk ∧ c.complete = { c with h := h', eng := e', job := .none }) ∨
      (∃ h' e', (c.job = .final ∨ c.job = .hFinal) ∧
        c.complete = { c with h := h', eng := e', fill := 0, phase := .result, job := .none }) ∨
      ∃ h' e' k', c.job = .keyEnd ∧ (c.keyhash = false → k' = c.key) ∧
        c.complete =
          { c with h := h', eng := e', key := k', msglen := 64, fill := 0, phase := .msg, job := .none } := by
  cases hj : c.job with
  | none => exact .inl ⟨rfl, c.complete_idle hj⟩
  | block blk =>
    obtain ⟨h', e', h⟩ := c.compressBlock_form blk
    exact .inr (.inl ⟨blk, h', e', rfl, by rw [c.complete_block blk hj, CoreState.completeBlock, h]⟩)
  | final =>
    obtain ⟨h', e', h⟩ := c.completeFinal_form
    exact .inr (.inr (.inl ⟨h', e', .inl rfl, by rw [c.complete_final hj, h]⟩))
  | hFinal =>
    obtain ⟨h', e', h⟩ := c.completeHFinal_form
    exact .inr (.inr (.inl ⟨h', e', .inr rfl, by rw [c.complete_hFinal hj, h]⟩))
  | keyEnd =>
    obtain ⟨h', e', k', h, hk⟩ := c.completeKeyEnd_form
    exact .inr (.inr (.inr ⟨h', e', k', rfl, hk, by rw [c.complete_keyEnd hj, h]⟩))

/-! ## Instructions by family: one equation each for the commands, the data writes and the reads -/

/-- R237: the six commands. -/
theorem exec_command (cmd : Command) (s : State) :
    exec cmd.instr s = .next (s.mapCore fun c => c.cmdWrite (some cmd)) := by
  cases cmd <;> rfl

/-- R237 -/
theorem exec_wrCmd (w : Word) (s : State) :
    exec (.wrCmd w) s = .next (s.mapCore fun c => c.cmdWrite (decodeCmd w)) := rfl

/-- R176 -/
theorem exec_wrDinWord (w : Word) (s : State) :
    exec (.wrDinWord w) s = .next (s.mapCore fun c => c.dinWrite (dinWordBytes w)) := rfl

/-- R177 -/
theorem exec_wrDinByte (w : Word) (s : State) :
    exec (.wrDinByte w) s = .next (s.mapCore fun c => c.dinWrite (dinByteBytes w)) := rfl

/-- R234 -/
theorem State.readHash_idle (s : State) (f : Hash → Word) (h : s.core.job = .none) :
    s.readHash f = s.withRdata (f s.core.h) := by
  simp [State.readHash, h]

/-- R234 -/
theorem State.readHash_busy (s : State) (f : Hash → Word) (h : s.core.job ≠ .none) :
    s.readHash f = { s.withRdata (Config.draw s.draws) with draws := s.draws + 1 } := by
  simp [State.readHash, h]

/-- R77: no read of H changes the core or the schedule. -/
@[simp] theorem State.readHash_core (s : State) (f : Hash → Word) : (s.readHash f).core = s.core := by
  unfold State.readHash
  split <;> rfl

@[simp] theorem State.readHash_events (s : State) (f : Hash → Word) : (s.readHash f).events = s.events := by
  unfold State.readHash
  split <;> rfl

/-! ## What a step can be -/

/-- R81, R290: the four ways a step goes on. -/
theorem step_cases {s t : State} (h : step s = .next t) :
    (s.events = [] ∧ t = engineStep s) ∨
      (∃ txn rest, s.events = .host txn :: rest ∧ exec (decode txn) { s with events := rest } = .next t) ∨
      (∃ rest, s.events = .engine :: rest ∧ t = engineStep { s with events := rest }) ∨
      ∃ rest, s.events = .reset :: rest ∧ t = resetStep { s with events := rest } := by
  unfold step fetch at h
  rcases hev : s.events with _ | ⟨e, rest⟩
  · rw [hev] at h
    injection h with h
    exact .inl ⟨rfl, h.symm⟩
  · rw [hev] at h
    cases e with
    | host txn => exact .inr (.inl ⟨txn, rest, rfl, h⟩)
    | engine =>
      injection h with h
      exact .inr (.inr (.inl ⟨rest, rfl, h.symm⟩))
    | reset =>
      injection h with h
      exact .inr (.inr (.inr ⟨rest, rfl, h.symm⟩))

/-- What an instruction can do to the core: nothing (a read, an ignored write), a command write, or a data write. -/
theorem exec_core_cases (i : Instr) {s t : State} (h : exec i s = .next t) :
    t.core = s.core ∨
      (∃ cmd, t = s.mapCore (fun c => c.cmdWrite cmd) ∧
        ((∃ c, cmd = some c ∧ i = c.instr) ∨ ∃ w, i = .wrCmd w ∧ cmd = decodeCmd w)) ∨
      ∃ bs, t = s.mapCore (fun c => c.dinWrite bs) ∧
        ∃ w, (i = .wrDinWord w ∧ bs = dinWordBytes w) ∨ (i = .wrDinByte w ∧ bs = dinByteBytes w) := by
  cases i with
  | wrCmd w => injection h with h; exact .inr (.inl ⟨decodeCmd w, h.symm, .inr ⟨w, rfl, rfl⟩⟩)
  | wrDinWord w => injection h with h; exact .inr (.inr ⟨dinWordBytes w, h.symm, w, .inl ⟨rfl, rfl⟩⟩)
  | wrDinByte w => injection h with h; exact .inr (.inr ⟨dinByteBytes w, h.symm, w, .inr ⟨rfl, rfl⟩⟩)
  | init => injection h with h; exact .inr (.inl ⟨some .init, h.symm, .inl ⟨.init, rfl, rfl⟩⟩)
  | final => injection h with h; exact .inr (.inl ⟨some .final, h.symm, .inl ⟨.final, rfl, rfl⟩⟩)
  | hmacInit => injection h with h; exact .inr (.inl ⟨some .hmacInit, h.symm, .inl ⟨.hmacInit, rfl, rfl⟩⟩)
  | hmacKeyEnd => injection h with h; exact .inr (.inl ⟨some .hmacKeyEnd, h.symm, .inl ⟨.hmacKeyEnd, rfl, rfl⟩⟩)
  | hmacFinal => injection h with h; exact .inr (.inl ⟨some .hmacFinal, h.symm, .inl ⟨.hmacFinal, rfl, rfl⟩⟩)
  | abort => injection h with h; exact .inr (.inl ⟨some .abort, h.symm, .inl ⟨.abort, rfl, rfl⟩⟩)
  | rdH0 => injection h with h; subst h; exact .inl (s.readHash_core _)
  | rdH1 => injection h with h; subst h; exact .inl (s.readHash_core _)
  | rdH2 => injection h with h; subst h; exact .inl (s.readHash_core _)
  | rdH3 => injection h with h; subst h; exact .inl (s.readHash_core _)
  | rdH4 => injection h with h; subst h; exact .inl (s.readHash_core _)
  | rdId => injection h with h; subst h; exact .inl rfl
  | rdCmd => injection h with h; subst h; exact .inl rfl
  | rdStatus => injection h with h; subst h; exact .inl rfl
  | rdDinWord => injection h with h; subst h; exact .inl rfl
  | rdDinByte => injection h with h; subst h; exact .inl rfl
  | rdRsvdA lo => injection h with h; subst h; exact .inl rfl
  | rdRsvdB lo => injection h with h; subst h; exact .inl rfl
  | wrId w => injection h with h; subst h; exact .inl rfl
  | wrStatus w => injection h with h; subst h; exact .inl rfl
  | wrH0 w => injection h with h; subst h; exact .inl rfl
  | wrH1 w => injection h with h; subst h; exact .inl rfl
  | wrH2 w => injection h with h; subst h; exact .inl rfl
  | wrH3 w => injection h with h; subst h; exact .inl rfl
  | wrH4 w => injection h with h; subst h; exact .inl rfl
  | wrRsvdA lo w => injection h with h; subst h; exact .inl rfl
  | wrRsvdB lo w => injection h with h; subst h; exact .inl rfl

end Sys2Proof.Machine
end

