-- ==== Sys2Proof/Laws/PerInstr.lean ====
section
/-! SUPPORT. The encoder against the opcode table, instruction by instruction. -/

namespace Sys2Proof

/-- R100, R105: the selector of an instruction's transaction lies in a BUS row of the table with the instruction's row name
(WR_CMD for the six CMD rows). -/
def Laws.RowMatch.Statement (i : Instr) : Prop :=
  ∃ r ∈ busRows, r.mnemonic = busMnemonic i ∧ r.covers (encode i).code = true

theorem Laws.RowMatch.rdId : Laws.RowMatch.Statement .rdId :=
  ⟨⟨"RD_ID", 0x00, 0x1F⟩, by decide, rfl, rfl⟩

theorem Laws.RowMatch.rdCmd : Laws.RowMatch.Statement .rdCmd :=
  ⟨⟨"RD_CMD", 0x01, 0x1F⟩, by decide, rfl, rfl⟩

theorem Laws.RowMatch.rdStatus : Laws.RowMatch.Statement .rdStatus :=
  ⟨⟨"RD_STATUS", 0x02, 0x1F⟩, by decide, rfl, rfl⟩

theorem Laws.RowMatch.rdDinWord : Laws.RowMatch.Statement .rdDinWord :=
  ⟨⟨"RD_DIN_WORD", 0x03, 0x1F⟩, by decide, rfl, rfl⟩

theorem Laws.RowMatch.rdDinByte : Laws.RowMatch.Statement .rdDinByte :=
  ⟨⟨"RD_DIN_BYTE", 0x04, 0x1F⟩, by decide, rfl, rfl⟩

theorem Laws.RowMatch.rdH0 : Laws.RowMatch.Statement .rdH0 :=
  ⟨⟨"RD_H0", 0x05, 0x1F⟩, by decide, rfl, rfl⟩

theorem Laws.RowMatch.rdH1 : Laws.RowMatch.Statement .rdH1 :=
  ⟨⟨"RD_H1", 0x06, 0x1F⟩, by decide, rfl, rfl⟩

theorem Laws.RowMatch.rdH2 : Laws.RowMatch.Statement .rdH2 :=
  ⟨⟨"RD_H2", 0x07, 0x1F⟩, by decide, rfl, rfl⟩

theorem Laws.RowMatch.rdH3 : Laws.RowMatch.Statement .rdH3 :=
  ⟨⟨"RD_H3", 0x08, 0x1F⟩, by decide, rfl, rfl⟩

theorem Laws.RowMatch.rdH4 : Laws.RowMatch.Statement .rdH4 :=
  ⟨⟨"RD_H4", 0x09, 0x1F⟩, by decide, rfl, rfl⟩

theorem Laws.RowMatch.rdRsvdA (lo : BitVec 1) : Laws.RowMatch.Statement (.rdRsvdA lo) :=
  ⟨⟨"RD_RSVD_A", 0x0A, 0x1E⟩, by decide, rfl, by revert lo; decide⟩

theorem Laws.RowMatch.rdRsvdB (lo : BitVec 2) : Laws.RowMatch.Statement (.rdRsvdB lo) :=
  ⟨⟨"RD_RSVD_B", 0x0C, 0x1C⟩, by decide, rfl, by revert lo; decide⟩

theorem Laws.RowMatch.wrId (wdata : Word) : Laws.RowMatch.Statement (.wrId wdata) :=
  ⟨⟨"WR_ID", 0x10, 0x1F⟩, by decide, rfl, by simp only [encode, Txn.code]; decide⟩

theorem Laws.RowMatch.wrCmd (wdata : Word) : Laws.RowMatch.Statement (.wrCmd wdata) :=
  ⟨⟨"WR_CMD", 0x11, 0x1F⟩, by decide, rfl, by simp only [encode, Txn.code]; decide⟩

theorem Laws.RowMatch.wrStatus (wdata : Word) : Laws.RowMatch.Statement (.wrStatus wdata) :=
  ⟨⟨"WR_STATUS", 0x12, 0x1F⟩, by decide, rfl, by simp only [encode, Txn.code]; decide⟩

theorem Laws.RowMatch.wrDinWord (wdata : Word) : Laws.RowMatch.Statement (.wrDinWord wdata) :=
  ⟨⟨"WR_DIN_WORD", 0x13, 0x1F⟩, by decide, rfl, by simp only [encode, Txn.code]; decide⟩

theorem Laws.RowMatch.wrDinByte (wdata : Word) : Laws.RowMatch.Statement (.wrDinByte wdata) :=
  ⟨⟨"WR_DIN_BYTE", 0x14, 0x1F⟩, by decide, rfl, by simp only [encode, Txn.code]; decide⟩

theorem Laws.RowMatch.wrH0 (wdata : Word) : Laws.RowMatch.Statement (.wrH0 wdata) :=
  ⟨⟨"WR_H0", 0x15, 0x1F⟩, by decide, rfl, by simp only [encode, Txn.code]; decide⟩

theorem Laws.RowMatch.wrH1 (wdata : Word) : Laws.RowMatch.Statement (.wrH1 wdata) :=
  ⟨⟨"WR_H1", 0x16, 0x1F⟩, by decide, rfl, by simp only [encode, Txn.code]; decide⟩

theorem Laws.RowMatch.wrH2 (wdata : Word) : Laws.RowMatch.Statement (.wrH2 wdata) :=
  ⟨⟨"WR_H2", 0x17, 0x1F⟩, by decide, rfl, by simp only [encode, Txn.code]; decide⟩

theorem Laws.RowMatch.wrH3 (wdata : Word) : Laws.RowMatch.Statement (.wrH3 wdata) :=
  ⟨⟨"WR_H3", 0x18, 0x1F⟩, by decide, rfl, by simp only [encode, Txn.code]; decide⟩

theorem Laws.RowMatch.wrH4 (wdata : Word) : Laws.RowMatch.Statement (.wrH4 wdata) :=
  ⟨⟨"WR_H4", 0x19, 0x1F⟩, by decide, rfl, by simp only [encode, Txn.code]; decide⟩

theorem Laws.RowMatch.wrRsvdA (lo : BitVec 1) (wdata : Word) : Laws.RowMatch.Statement (.wrRsvdA lo wdata) :=
  ⟨⟨"WR_RSVD_A", 0x1A, 0x1E⟩, by decide, rfl, by simp only [encode, Txn.code]; revert lo; decide⟩

theorem Laws.RowMatch.wrRsvdB (lo : BitVec 2) (wdata : Word) : Laws.RowMatch.Statement (.wrRsvdB lo wdata) :=
  ⟨⟨"WR_RSVD_B", 0x1C, 0x1C⟩, by decide, rfl, by simp only [encode, Txn.code]; revert lo; decide⟩

theorem Laws.RowMatch.init : Laws.RowMatch.Statement .init :=
  ⟨⟨"WR_CMD", 0x11, 0x1F⟩, by decide, rfl, rfl⟩

theorem Laws.RowMatch.final : Laws.RowMatch.Statement .final :=
  ⟨⟨"WR_CMD", 0x11, 0x1F⟩, by decide, rfl, rfl⟩

theorem Laws.RowMatch.hmacInit : Laws.RowMatch.Statement .hmacInit :=
  ⟨⟨"WR_CMD", 0x11, 0x1F⟩, by decide, rfl, rfl⟩

theorem Laws.RowMatch.hmacKeyEnd : Laws.RowMatch.Statement .hmacKeyEnd :=
  ⟨⟨"WR_CMD", 0x11, 0x1F⟩, by decide, rfl, rfl⟩

theorem Laws.RowMatch.hmacFinal : Laws.RowMatch.Statement .hmacFinal :=
  ⟨⟨"WR_CMD", 0x11, 0x1F⟩, by decide, rfl, rfl⟩

theorem Laws.RowMatch.abort : Laws.RowMatch.Statement .abort :=
  ⟨⟨"WR_CMD", 0x11, 0x1F⟩, by decide, rfl, rfl⟩

end Sys2Proof
end

