-- ==== Sys2Proof/Tests/Slice0.lean ====
section
/-! SUPPORT. Tests of single operations on values that spec/95_test_vectors.md gives, words written out from the encoding
maps, the smoke test of WellFormed, and a witness for the hypotheses of every statement that has some. -/

namespace Sys2Proof.Tests

open Sys2Proof Sys2Proof.Machine

/-! ## Small states -/

/-- A state with this core and nothing scheduled. -/
def withCore (c : CoreState) : State := { State.reset with core := c }

/-- A state with this core and these events to come. -/
def withEvents (c : CoreState) (evs : List Event) : State := { State.reset with core := c, events := evs }

/-- A SHA-1 session that has received `n` bytes 0 (n < 64), no block yet. -/
def hashMsg (n : Fin 64) : CoreState :=
  { CoreState.reset with mode := .hash, phase := .msg, h := iv, fill := n, msglen := n.val }

/-- An HMAC session with `n` key bytes 0 (n ≤ 64). -/
def hmacKey (n : Fin 65) : CoreState := { CoreState.reset with mode := .hmac, phase := .key, h := iv, keylen := n }

/-- An HMAC session with a hashed key of 65 bytes 0. -/
def hmacLongKey : CoreState :=
  { CoreState.reset with
    mode := .hmac, phase := .key, h := iv, keylen := 64, keyhash := true, fill := 1, msglen := 65 }

/-- An HMAC session in the message phase, after the inner pad block. -/
def hmacMsg : CoreState := { CoreState.reset with mode := .hmac, phase := .msg, h := iv, msglen := 64 }

/-- A finished SHA-1 session. -/
def hashResult : CoreState := { CoreState.reset with mode := .hash, phase := .result, h := ⟨1, 2, 3, 4, 5⟩ }

/-- STATUS after an instruction. -/
def statusAfter (i : Instr) (c : CoreState) : Option Word :=
  match exec i (withCore c) with
  | .next t => some (status t.core)
  | .fault _ => none
  | .refused _ => none

/-- What a read instruction returns. -/
def rdataAfter (i : Instr) (c : CoreState) : Option Word :=
  match exec i (withCore c) with
  | .next t => some t.rdata
  | .fault _ => none
  | .refused _ => none

/-! ## WellFormed smoke test -/

/-- R106, R107: `wrCmd` of a defined word is ill formed, for each of the six. -/
theorem test_wf_refuses_defined_words :
    (Instr.wrCmd 0x00000001).wf = false ∧ (Instr.wrCmd 0x00000002).wf = false ∧
      (Instr.wrCmd 0x00000003).wf = false ∧ (Instr.wrCmd 0x00000004).wf = false ∧
      (Instr.wrCmd 0x00000005).wf = false ∧ (Instr.wrCmd 0x0000000F).wf = false := by decide

/-- R107: a reserved word is well formed, OPCODE right and RSVD wrong among them. -/
theorem test_wf_accepts_reserved_words :
    (Instr.wrCmd 0x00000000).wf = true ∧ (Instr.wrCmd 0x00000006).wf = true ∧
      (Instr.wrCmd 0x00000101).wf = true ∧ (Instr.wrCmd 0x8000000F).wf = true := by decide

/-! ## Decoding, word by word (R100, R105, R106): we in bit 4, idx in bits 3:0 -/

theorem test_decode_reads_0_to_4 :
    decodeTableWord 8 0b00000 = some .rdId ∧ decodeTableWord 8 0b00001 = some .rdCmd ∧
      decodeTableWord 8 0b00010 = some .rdStatus ∧ decodeTableWord 8 0b00011 = some .rdDinWord ∧
      decodeTableWord 8 0b00100 = some .rdDinByte := by decide

theorem test_decode_reads_5_to_9 :
    decodeTableWord 8 0b00101 = some .rdH0 ∧ decodeTableWord 8 0b00110 = some .rdH1 ∧
      decodeTableWord 8 0b00111 = some .rdH2 ∧ decodeTableWord 8 0b01000 = some .rdH3 ∧
      decodeTableWord 8 0b01001 = some .rdH4 := by decide

theorem test_decode_reserved_reads :
    decodeTableWord 8 0b01010 = some (.rdRsvdA 0) ∧ decodeTableWord 8 0b01011 = some (.rdRsvdA 1) ∧
      decodeTableWord 8 0b01100 = some (.rdRsvdB 0) ∧ decodeTableWord 8 0b01111 = some (.rdRsvdB 3) := by decide

theorem test_decode_writes_0_to_4 :
    decodeTableWord 8 0b10000 = some (.wrId 0) ∧ decodeTableWord 8 0b10001 = some (.wrCmd 0) ∧
      decodeTableWord 8 0b10010 = some (.wrStatus 0) ∧ decodeTableWord 8 0b10011 = some (.wrDinWord 0) ∧
      decodeTableWord 8 0b10100 = some (.wrDinByte 0) := by decide

theorem test_decode_writes_5_to_9 :
    decodeTableWord 8 0b10101 = some (.wrH0 0) ∧ decodeTableWord 8 0b10110 = some (.wrH1 0) ∧
      decodeTableWord 8 0b10111 = some (.wrH2 0) ∧ decodeTableWord 8 0b11000 = some (.wrH3 0) ∧
      decodeTableWord 8 0b11001 = some (.wrH4 0) := by decide

theorem test_decode_reserved_writes :
    decodeTableWord 8 0b11010 = some (.wrRsvdA 0 0) ∧ decodeTableWord 8 0b11011 = some (.wrRsvdA 1 0) ∧
      decodeTableWord 8 0b11100 = some (.wrRsvdB 0 0) ∧ decodeTableWord 8 0b11111 = some (.wrRsvdB 3 0) := by decide

theorem test_decode_commands :
    decodeTableWord 32 0x00000001 = some .init ∧ decodeTableWord 32 0x00000002 = some .final ∧
      decodeTableWord 32 0x00000003 = some .hmacInit ∧ decodeTableWord 32 0x00000004 = some .hmacKeyEnd ∧
      decodeTableWord 32 0x00000005 = some .hmacFinal ∧ decodeTableWord 32 0x0000000F = some .abort := by decide

/-- What is no word of the table is refused by name. -/
theorem test_decode_refuses :
    tableTxn 8 0x20 = .error .notASelector ∧ tableTxn 16 0x02 = .error .notAWidth ∧
      decodeTableWord 8 0x20 = none := by decide

/-- `withFetchWord` makes the next step the word's instruction: STATUS read at reset, then INIT. -/
theorem test_fetch_word :
    (∃ t, step (State.reset.withFetchWord 8 0x00) = .next t ∧ t.rdata = 0x53484131) ∧
      ∃ t, step (State.reset.withFetchWord 32 0x1) = .next t ∧ status t.core = 0x24 :=
  ⟨⟨_, rfl, rfl⟩, ⟨_, rfl, by decide⟩⟩

/-! ## Reads (L2-A, L2-T1) -/

theorem test_rdId : rdataAfter .rdId (hashMsg 3) = some 0x53484131 := by decide
theorem test_rdCmd : rdataAfter .rdCmd hashResult = some 0 := by decide
/-- L2-S1: "a" × 55 before FINAL. -/
theorem test_rdStatus : rdataAfter .rdStatus (hashMsg 55) = some 0x00370024 := by decide
theorem test_rdDinWord : rdataAfter .rdDinWord hashResult = some 0 := by decide
theorem test_rdDinByte : rdataAfter .rdDinByte hashResult = some 0 := by decide
/-- L2-A step 10. -/
theorem test_rdH0 : rdataAfter .rdH0 (hashMsg 0) = some 0x67452301 := by decide
theorem test_rdH1 : rdataAfter .rdH1 (hashMsg 0) = some 0xEFCDAB89 := by decide
theorem test_rdH2 : rdataAfter .rdH2 (hashMsg 0) = some 0x98BADCFE := by decide
theorem test_rdH3 : rdataAfter .rdH3 (hashMsg 0) = some 0x10325476 := by decide
theorem test_rdH4 : rdataAfter .rdH4 (hashMsg 0) = some 0xC3D2E1F0 := by decide
theorem test_rdRsvdA : rdataAfter (.rdRsvdA 1) hashResult = some 0 := by decide
theorem test_rdRsvdB : rdataAfter (.rdRsvdB 3) hashResult = some 0 := by decide

/-! ## Ignored writes (L2-A steps 5 to 9) -/

theorem test_wrId : exec (.wrId 0xFFFFFFFF) State.reset = .next State.reset := rfl
theorem test_wrStatus : exec (.wrStatus 0xFFFFFFFF) State.reset = .next State.reset := rfl
theorem test_wrH0 : exec (.wrH0 0x12345678) (withCore (hashMsg 0)) = .next (withCore (hashMsg 0)) := rfl
theorem test_wrH1 : exec (.wrH1 0x12345678) (withCore (hashMsg 0)) = .next (withCore (hashMsg 0)) := rfl
theorem test_wrH2 : exec (.wrH2 0x12345678) (withCore (hashMsg 0)) = .next (withCore (hashMsg 0)) := rfl
theorem test_wrH3 : exec (.wrH3 0x12345678) (withCore (hashMsg 0)) = .next (withCore (hashMsg 0)) := rfl
theorem test_wrH4 : exec (.wrH4 0x12345678) (withCore (hashMsg 0)) = .next (withCore (hashMsg 0)) := rfl
theorem test_wrRsvdA : exec (.wrRsvdA 0 0x1) State.reset = .next State.reset := rfl
theorem test_wrRsvdB : exec (.wrRsvdB 3 0x1) State.reset = .next State.reset := rfl

/-! ## Data writes -/

/-- R176's example, and P3 step 2: FILL = 4. -/
theorem test_wrDinWord : statusAfter (.wrDinWord 0x00010203) (hashMsg 0) = some 0x00040024 := by decide
/-- L2-S6: two bytes complete the block, two follow it. -/
theorem test_wrDinWord_straddles : statusAfter (.wrDinWord 0x64656667) (hashMsg 62) = some 0x00020025 := by decide
/-- P10 step 2: the upper bits are ignored. -/
theorem test_wrDinByte :
    exec (.wrDinByte 0xFFFFFF61) (withCore (hashMsg 0)) = exec (.wrDinByte 0x61) (withCore (hashMsg 0)) := rfl
/-- P5 step 18: the 65th key byte. -/
theorem test_wrDinByte_65th_key_byte : statusAfter (.wrDinByte 0x40) (hmacKey 64) = some 0x00010059 := by decide
/-- L2-H11: a key word over the boundary. -/
theorem test_key_word_straddles : statusAfter (.wrDinWord 0x01020304) (hmacKey 62) = some 0x00020059 := by decide
/-- L2-X15: with streamlen = MAXLEN − 2 a word is dropped with LENGTH, a byte is accepted. -/
theorem test_length_error :
    statusAfter (.wrDinWord 0) { hashMsg 61 with msglen := 2 ^ 61 - 3 } = some 0x003D0424 ∧
      statusAfter (.wrDinByte 0) { hashMsg 61 with msglen := 2 ^ 61 - 3 } = some 0x003E0024 := by decide

/-! ## Commands -/

/-- L2-X4. -/
theorem test_init : statusAfter .init { CoreState.reset with err := .seq } = some 0x00000024 := by decide
/-- R179's example: "abc" received. -/
theorem test_final : statusAfter .final (hashMsg 3) = some 0x00030025 := by decide
/-- L2-X11. -/
theorem test_final_in_key_phase : statusAfter .final (hmacKey 0) = some 0x00000318 := by decide
/-- R200's example. -/
theorem test_hmacInit : statusAfter .hmacInit CoreState.reset = some 0x00000018 := by decide
/-- R203's example: key "key". -/
theorem test_hmacKeyEnd : statusAfter .hmacKeyEnd (hmacKey 3) = some 0x00000019 := by decide
/-- L2-X12. -/
theorem test_hmacKeyEnd_in_hash_session : statusAfter .hmacKeyEnd (hashMsg 0) = some 0x00000324 := by decide
/-- R207's example: 43 message bytes. -/
theorem test_hmacFinal : statusAfter .hmacFinal { hmacMsg with fill := 43, msglen := 107 } = some 0x002B0029 := by decide
/-- L2-X10. -/
theorem test_hmacFinal_before_key_end : statusAfter .hmacFinal (hmacKey 0) = some 0x00000318 := by decide
/-- L2-X14: ABORT while busy and with an error. -/
theorem test_abort : statusAfter .abort { hashMsg 1 with job := .final, err := .busy } = some 0x00000000 := by decide
/-- L2-X5. -/
theorem test_wrCmd_reserved : statusAfter (.wrCmd 0x101) (hashMsg 0) = some 0x00000224 := by decide
/-- L2-X9: BUSY comes before BADCMD. -/
theorem test_wrCmd_busy : statusAfter (.wrCmd 0x6) { hashMsg 0 with job := .final } = some 0x00000125 := by decide

/-! ## Compression and padding (L2-F, L2-E, L2-R, L2-C, L2-P) -/

theorem test_fCh : fCh 0xFFFF0000 0xFF00FF00 0xF0F0F0F0 = 0xFF00F0F0 := by decide
theorem test_fParity : fParity 0xFFFF0000 0xFF00FF00 0xF0F0F0F0 = 0xF00F0FF0 := by decide
theorem test_fMaj : fMaj 0xFFFF0000 0xFF00FF00 0xF0F0F0F0 = 0xFFF0F000 := by decide
theorem test_rotl :
    rotl 0x80000000 1 = 0x00000001 ∧ rotl 0x12345678 5 = 0x468ACF02 ∧ rotl 0x12345678 30 = 0x048D159E ∧
      rotl 0x80000001 30 = 0x60000000 := by decide
/-- L2-R1, t = 0 and t = 1. -/
theorem test_round :
    roundAt 0 0x61626380 (loadWork iv) = ⟨0x0116FC33, 0x67452301, 0x7BF36AE2, 0x98BADCFE, 0x10325476⟩ ∧
      roundAt 1 0 ⟨0x0116FC33, 0x67452301, 0x7BF36AE2, 0x98BADCFE, 0x10325476⟩ =
        ⟨0x8990536D, 0x0116FC33, 0x59D148C0, 0x7BF36AE2, 0x98BADCFE⟩ := by decide
/-- L2-R2 and L2-E1: t = 20, the first round of stage 1, with W[20] = 0. -/
theorem test_round_20 :
    roundAt 20 0 ⟨0xFD9E1D7D, 0xDC64901D, 0x20AA99CA, 0xD3A49608, 0xC82F758B⟩ =
      ⟨0x1A37B0CA, 0xFD9E1D7D, 0x77192407, 0x20AA99CA, 0xD3A49608⟩ := by decide
/-- L2-R3: t = 79, with W[79] of L2-E1. -/
theorem test_round_79 :
    roundAt 79 0x822E0879 ⟨0x5738D5E1, 0x860D21CC, 0x681E6DF6, 0xD8FDF6AD, 0xD7B9DA25⟩ =
      ⟨0x42541B35, 0x5738D5E1, 0x21834873, 0x681E6DF6, 0xD8FDF6AD⟩ := by decide
/-- L2-U1. -/
theorem test_update :
    updateHash iv ⟨0x42541B35, 0x5738D5E1, 0x21834873, 0x681E6DF6, 0xD8FDF6AD⟩ =
      ⟨0xA9993E36, 0x4706816A, 0xBA3E2571, 0x7850C26C, 0x9CD0D89D⟩ := by decide
/-- L2-E1, W[16] and W[18]. -/
theorem test_scheduleWord :
    scheduleWord 0 0 0 0x61626380 = 0xC2C4C700 ∧ scheduleWord 0x00000018 0 0 0 = 0x00000030 := by decide
/-- L2-C1: one whole compression, the padded "abc" (L1-2, L2-P). -/
theorem test_compress_abc :
    finish iv [0x61, 0x62, 0x63] 3 = ⟨0xA9993E36, 0x4706816A, 0xBA3E2571, 0x7850C26C, 0x9CD0D89D⟩ := by
  decide +kernel
/-- L2-H1, through the engine's own registers: KEYEND completes with the empty key. -/
theorem test_engine_key_end :
    ({ hmacKey 0 with job := .keyEnd } : CoreState).complete.h =
      ⟨0xC9F7BD57, 0x621BD73B, 0xEA0FEAD1, 0x41A5A132, 0x4E4F361D⟩ := by
  decide +kernel
/-- L2-P, the rows n = 55 and n = 56. -/
theorem test_pad :
    (pad (copies 0x61 55) 55).drop 55 = [0x80, 0, 0, 0, 0, 0, 0, 0x01, 0xB8] ∧
      (pad (copies 0x61 56) 56).length = 128 ∧ (pad (copies 0x61 56) 56).drop 126 = [0x01, 0xC0] := by
  decide +kernel

/-! ## Witnesses: for each statement with hypotheses, a state and operands that meet them all

`witness_X…` is for `Obligations.X`. Where a statement has several clauses there is one state for each. -/

theorem witness_DecodeEncodeRoundTrip :
    (Instr.wrCmd 0xFFFFFFFF).wf = true ∧ (Instr.wrDinWord 0xFFFFFFFF).wf = true ∧ Instr.abort.wf = true := by decide

theorem witness_EverySelectorInExactlyOneRow :
    (⟨"WR_RSVD_B", 0x1C, 0x1C⟩ : BusRow) ∈ busRows ∧
      (⟨"WR_RSVD_B", 0x1C, 0x1C⟩ : BusRow).covers (Txn.write 0xF 0).code = true := by decide

theorem witness_StepRunsTheDecodedInstruction :
    (withEvents (hashMsg 0) [.host (.write 0x4 0x61), .engine]).events = .host (.write 0x4 0x61) :: [.engine] := rfl

theorem witness_EngineAndResetSteps :
    (withEvents { hashMsg 0 with job := .final } [.engine]).events = .engine :: [] ∧
      (withEvents { hashMsg 0 with job := .final } [.reset]).events = .reset :: [] ∧
      (withCore (hashMsg 0)).events = [] ∧ (withCore (hashMsg 0)).core.job = .none := ⟨rfl, rfl, rfl, rfl⟩

/-- A state in which most of the invariant's clauses say something: a hashed key of 65 bytes. -/
theorem witness_Inv_longKey : hmacLongKey.Inv where
  session := by decide
  hashedKeyFull := fun _ => rfl
  hashedKeyLen := fun _ _ => by decide
  noSession := by decide
  plainKey := by decide
  hmacMsg := by decide
  fillCongruent := fun _ _ => rfl
  resultFill := by decide
  lenBound := by decide
  keyZero := fun i hi h => absurd (show 64 ≤ i from h) (by omega)
  jobFits := trivial

theorem witness_EveryStepKeepsTheInvariant :
    (withEvents hmacLongKey [.host (.write 0x3 0x01020304)]).core.Inv ∧
      ∃ t, step (withEvents hmacLongKey [.host (.write 0x3 0x01020304)]) = .next t ∧ t.core.fill = 5 :=
  ⟨witness_Inv_longKey, _, rfl, rfl⟩

theorem witness_JobsStartOnlyWithoutError :
    (withEvents (hashMsg 3) [commandEvent .final]).core.job = .none ∧
      ∃ t, step (withEvents (hashMsg 3) [commandEvent .final]) = .next t ∧ t.core.job ≠ .none :=
  ⟨rfl, _, rfl, by decide⟩

theorem witness_JobInFlightIsUndisturbed :
    (Instr.wrDinByte 0x62).wf = true ∧ Instr.wrDinByte 0x62 ≠ .abort ∧
      (withCore { hashMsg 1 with job := .final }).core.job ≠ .none := by decide

theorem witness_HashReadsWhenIdle : (withCore hashResult).core.job = .none := rfl

theorem witness_HashReadsWhileBusyAreDraws :
    (withCore { hashMsg 1 with job := .final }).core.job ≠ .none ∧
      Instr.rdH4 ∈ ([.rdH0, .rdH1, .rdH2, .rdH3, .rdH4] : List Instr) := by decide

/-- Two states that differ in the hidden elements only: K, keylen and msglen. -/
theorem witness_HiddenStateCannotBeRead :
    let c : CoreState := { hmacMsg with key := Vector.replicate 64 0xFF, keylen := 64, msglen := 128 }
    hmacMsg.msglen ≠ c.msglen ∧ hmacMsg.h = c.h ∧ hmacMsg.mode = c.mode ∧ hmacMsg.phase = c.phase ∧ hmacMsg.err = c.err ∧
      hmacMsg.fill = c.fill ∧ hmacMsg.keyhash = c.keyhash ∧ (hmacMsg.job = .none ↔ c.job = .none) ∧
      (∃ t, exec (decode (.read 0x2)) (withCore hmacMsg) = .next t) ∧
      ∃ t, exec (decode (.read 0x2)) (withCore c) = .next t :=
  ⟨show (64 : Nat) ≠ 128 by decide, rfl, rfl, rfl, rfl, rfl, rfl, Iff.rfl, ⟨_, rfl⟩, ⟨_, rfl⟩⟩

theorem witness_WrCmdExecutesItsWord : (withCore { hmacLongKey with err := .seq }).core.job = .none := rfl

/-- The smallest reserved word, words beside the defined ones, and one with RSVD set. -/
theorem witness_ReservedWordRaisesBadCmd :
    let defined : List Word := [0x00000001, 0x00000002, 0x00000003, 0x00000004, 0x00000005, 0x0000000F]
    (0x00000000 : Word) ∉ defined ∧ (0x00000006 : Word) ∉ defined ∧ (0x0000000E : Word) ∉ defined ∧
      (0x00000010 : Word) ∉ defined ∧ (0x00000101 : Word) ∉ defined ∧
      (withCore hashResult).core.job = .none := by decide

theorem witness_InitStartsAHashSession :
    (withCore { hashMsg 0 with job := .final }).core.job ≠ .none ∧
      (withCore { hashResult with err := .length }).core.job = .none := by decide

theorem witness_HmacInitStartsTheKeyPhase :
    (withCore { hmacLongKey with job := .keyEnd }).core.job ≠ .none ∧ (withCore hmacLongKey).core.job = .none := by
  decide

/-- Busy, with an error, each command's own session state, and a state that allows none of the three. -/
theorem witness_FinishingCommandsIssueTheirJob :
    (withCore { hashMsg 1 with job := .final }).core.job ≠ .none ∧
      ((hashMsg 1).job = .none ∧ ({ hashMsg 1 with err := .seq } : CoreState).err ≠ .none) ∧
      ((hashMsg 63).job = .none ∧ (hashMsg 63).err = .none ∧ (hashMsg 63).mode = .hash ∧ (hashMsg 63).phase = .msg) ∧
      (hmacLongKey.job = .none ∧ hmacLongKey.err = .none ∧ hmacLongKey.mode = .hmac ∧ hmacLongKey.phase = .key) ∧
      (hmacMsg.job = .none ∧ hmacMsg.err = .none ∧ hmacMsg.mode = .hmac ∧ hmacMsg.phase = .msg) ∧
      (hashResult.job = .none ∧ hashResult.err = .none ∧ ¬(hashResult.mode = .hash ∧ hashResult.phase = .msg) ∧
        ¬(hashResult.mode = .hmac ∧ hashResult.phase = .key) ∧
        ¬(hashResult.mode = .hmac ∧ hashResult.phase = .msg)) := by decide

theorem witness_WritesWhileBusyRecordBusy :
    (withCore { hashMsg 0 with job := .block (Vector.replicate 16 0) }).core.job ≠ .none ∧
      (0x00000006 : Word) ≠ 0x0000000F := by decide

/-- A word for each line of the check order. -/
theorem witness_CommandCheckOrder :
    (0x00000006 : Word) ∉ ([0x00000001, 0x00000002, 0x00000003, 0x00000004, 0x00000005] : List Word) ∧
      (0x00000005 : Word) ≠ 0x0000000F ∧ (hashMsg 0).mode = .hash ∧ (hashMsg 0).phase = .msg := by decide

/-- A word and a byte; the phases that take no data; the last byte that fits, one too many, and a word one too many. -/
theorem witness_DataWriteCheckOrder :
    isDataWrite (.wrDinByte 0xFFFFFF61) [0x61] ∧ isDataWrite (.wrDinWord 0x01020304) [1, 2, 3, 4] ∧
      (hashResult.job = .none ∧ hashResult.err = .none ∧ hashResult.phase = .result) ∧
      (CoreState.reset.job = .none ∧ CoreState.reset.err = .none ∧ CoreState.reset.phase = .none) ∧
      ((hashMsg 63).phase = .msg ∧ (2 ^ 61 - 2) + 1 ≤ 2 ^ 61 - 1 ∧ (2 ^ 61 - 1) + 1 > 2 ^ 61 - 1 ∧
        (2 ^ 61 - 4) + 4 > 2 ^ 61 - 1) :=
  ⟨⟨0xFFFFFF61, .inr ⟨rfl, rfl⟩⟩, ⟨0x01020304, .inl ⟨rfl, rfl⟩⟩, by decide, by decide, by decide⟩

theorem witness_ErrorStopsTheSession :
    (withCore { hashMsg 1 with err := .badCmd }).core.job = .none ∧
      (withCore { hashMsg 1 with err := .badCmd }).core.err ≠ .none ∧ decodeCmd 0x00000006 = none := by decide

theorem witness_ErrorIsSticky :
    (∃ t, step (withEvents { hashMsg 1 with err := .seq } [.host (.write 0x4 0x61)]) = .next t ∧
        t.core.err = .seq) ∧
      ∃ t, step (withEvents { hashMsg 1 with err := .seq } [commandEvent .init]) = .next t ∧ t.core.err = .none :=
  ⟨⟨_, rfl, rfl⟩, ⟨_, rfl, rfl⟩⟩

/-- A command that starts a job, and a data write that fills the block buffer. -/
theorem witness_WritesThatStartAJob :
    (Instr.final.wf = true ∧ (hashMsg 3).job = .none ∧
        ∃ t, exec .final (withCore (hashMsg 3)) = .next t ∧ t.core.job ≠ .none) ∧
      (Instr.wrDinByte 0x61).wf = true ∧ (hashMsg 63).job = .none ∧
        ∃ t, exec (.wrDinByte 0x61) (withCore (hashMsg 63)) = .next t ∧ t.core.job ≠ .none :=
  ⟨⟨rfl, rfl, _, rfl, by decide⟩, rfl, rfl, _, rfl, by decide⟩

theorem witness_OnlySessionCommandsMoveTheSession :
    Instr.hmacInit.wf = true ∧ ∃ t, exec .hmacInit (withCore hashResult) = .next t ∧ t.core.phase = .key :=
  ⟨rfl, _, rfl, rfl⟩

/-- One instruction of each of the two kinds that change H. -/
theorem witness_WhichInstructionsChangeTheHash :
    (∃ t, exec .abort (withCore hashResult) = .next t ∧ t.core.h ≠ hashResult.h) ∧
      ∃ t, exec (.wrDinByte 0x40) (withCore { hmacKey 64 with h := ⟨1, 2, 3, 4, 5⟩ }) = .next t ∧
        t.core.h ≠ ⟨1, 2, 3, 4, 5⟩ :=
  ⟨⟨_, rfl, by decide⟩, ⟨_, rfl, by decide⟩⟩

theorem witness_Inv_result : hashResult.Inv where
  session := by decide
  hashedKeyFull := by decide
  hashedKeyLen := by decide
  noSession := by decide
  plainKey := by decide
  hmacMsg := by decide
  fillCongruent := fun _ h => absurd rfl h
  resultFill := fun _ => rfl
  lenBound := by decide
  keyZero := fun i hi _ => by simp [hashResult, CoreState.reset]
  jobFits := trivial

theorem witness_ResultStaysReadable :
    hashResult.Inv ∧ hashResult.phase = .result ∧
      (∃ t, step (withEvents hashResult [.host (.write 0x4 0x62)]) = .next t) ∧
      ∀ rest, (withEvents hashResult [.host (.write 0x4 0x62)]).events ≠ .reset :: rest ∧
        (withEvents hashResult [.host (.write 0x4 0x62)]).events ≠ commandEvent .init :: rest ∧
        (withEvents hashResult [.host (.write 0x4 0x62)]).events ≠ commandEvent .hmacInit :: rest ∧
        (withEvents hashResult [.host (.write 0x4 0x62)]).events ≠ commandEvent .abort :: rest :=
  ⟨witness_Inv_result, rfl, ⟨_, rfl⟩, fun rest => by simp [withEvents, commandEvent]⟩

/-- The last write that fits (63 bytes, MAXLEN reached) and the write that fills the block. -/
theorem witness_DataWritesFillTheBlockBuffer :
    isDataWrite (.wrDinByte 0x61) [0x61] ∧ isDataWrite (.wrDinWord 0x61626364) [0x61, 0x62, 0x63, 0x64] ∧
      ({ hashMsg 62 with msglen := 2 ^ 61 - 2 } : CoreState).job = .none ∧
      ({ hashMsg 62 with msglen := 2 ^ 61 - 2 } : CoreState).err = .none ∧
      ({ hashMsg 62 with msglen := 2 ^ 61 - 2 } : CoreState).streamsToBuffer ∧
      (2 ^ 61 - 2 : Nat) + 1 ≤ 2 ^ 61 - 1 ∧
      (hashMsg 60).streamsToBuffer ∧ (hashMsg 60).msglen + 4 ≤ 2 ^ 61 - 1 ∧ ¬((hashMsg 60).fill.val + 4 < 64) ∧
      hmacLongKey.streamsToBuffer :=
  ⟨⟨0x61, .inr ⟨rfl, rfl⟩⟩, ⟨0x61626364, .inl ⟨rfl, rfl⟩⟩, rfl, rfl, .inl rfl, by decide, .inl rfl, by decide,
    by decide, .inr ⟨rfl, rfl⟩⟩

/-- A word that fills K exactly. -/
theorem witness_DataWritesFillTheKeyBuffer :
    isDataWrite (.wrDinWord 0x61626364) [0x61, 0x62, 0x63, 0x64] ∧ (hmacKey 60).job = .none ∧
      (hmacKey 60).err = .none ∧ (hmacKey 60).streamsToKey ∧ (hmacKey 60).keylen.val + 4 ≤ 64 :=
  ⟨⟨0x61626364, .inl ⟨rfl, rfl⟩⟩, rfl, rfl, ⟨rfl, rfl⟩, by decide⟩

/-- A word whose last byte is the 65th, and a byte that is the 65th. -/
theorem witness_SixtyFifthKeyByteStartsTheKeyHash :
    isDataWrite (.wrDinWord 0x61626364) [0x61, 0x62, 0x63, 0x64] ∧ (hmacKey 61).job = .none ∧
      (hmacKey 61).err = .none ∧ (hmacKey 61).streamsToKey ∧ 64 < (hmacKey 61).keylen.val + 4 ∧
      isDataWrite (.wrDinByte 0x61) [0x61] ∧ (hmacKey 64).streamsToKey ∧ 64 < (hmacKey 64).keylen.val + 1 :=
  ⟨⟨0x61626364, .inl ⟨rfl, rfl⟩⟩, rfl, rfl, ⟨rfl, rfl⟩, by decide, ⟨0x61, .inr ⟨rfl, rfl⟩⟩, ⟨rfl, rfl⟩, by decide⟩

theorem witness_DinByteIgnoresUpperBits :
    (0xFFFFFF61 : Word) ≠ 0x00000061 ∧
      (0xFFFFFF61 : Word).extractLsb' 0 8 = (0x00000061 : Word).extractLsb' 0 8 := by decide

theorem witness_BlockWordsAreBigEndian : (copies 0x61 64).length = 64 ∧ (15 : Nat) < 16 := by decide

theorem witness_DigestSerialization : (4 : Nat) < 5 ∧ (3 : Nat) < 4 := by decide

theorem witness_RotlIsRotation : (0 : Nat) < 31 ∧ (31 : Nat) < 32 := by decide

theorem witness_ScheduleRecurrence : (15 : Nat) < 16 ∧ (16 : Nat) ≤ 16 ∧ (16 : Nat) ≤ 79 ∧ (79 : Nat) < 80 := by
  decide

theorem witness_MixingFunctionsBitwise : (31 : Nat) < 32 := by decide

theorem witness_MicroSequenceIsCompress : (Engine.load iv (Vector.replicate 16 0)).t.val < 80 := by
  simp [Engine.load]

/-- Tail lengths 55, 56 and 63, and the longest stream. -/
theorem witness_PaddingShape :
    (copies 0x61 55).length < 64 ∧ (copies 0x61 56).length < 64 ∧ (copies 0x61 63).length < 64 ∧
      (2 ^ 61 - 1 : Nat) ≤ 2 ^ 61 - 1 := by decide

theorem witness_BlockCompletion :
    let s := withEvents { hashMsg 2 with job := .block (Vector.replicate 16 0) } [.engine]
    s.core.job = .block (Vector.replicate 16 0) ∧ s.events = .engine :: [] := ⟨rfl, rfl⟩

theorem witness_FinalCompletion :
    let s := withEvents { hashMsg 56 with job := .final } [.engine]
    s.core.job = .final ∧ s.events = .engine :: [] := ⟨rfl, rfl⟩

/-- With and without a hashed key. -/
theorem witness_KeyEndCompletion :
    let s := withEvents { hmacLongKey with job := .keyEnd } [.engine]
    let s' := withEvents { hmacKey 3 with job := .keyEnd } [.engine]
    s.core.job = .keyEnd ∧ s.events = .engine :: [] ∧ s.core.keyhash = true ∧ s'.core.job = .keyEnd ∧
      s'.events = .engine :: [] ∧ s'.core.keyhash = false := ⟨rfl, rfl, rfl, rfl, rfl, rfl⟩

theorem witness_HmacFinalCompletion :
    let s := withEvents { hmacMsg with fill := 43, msglen := 107, job := .hFinal } [.engine]
    s.core.job = .hFinal ∧ s.events = .engine :: [] := ⟨rfl, rfl⟩

/-- Whether a run of a number of steps ends with no error. -/
def endsClean (n : Nat) (s : State) : Bool :=
  match Host.Core.run Sys2Proof.core n s with
  | .next t => decide (t.core.err = .none)
  | .fault _ => false
  | .refused _ => false

theorem of_endsClean {n : Nat} {s : State} (h : endsClean n s = true) :
    ∃ t : State, Host.Core.run Sys2Proof.core n s = .next t ∧ t.core.err = .none := by
  unfold endsClean at h
  split at h
  · exact ⟨_, ‹_›, of_decide_eq_true h⟩
  · cases h
  · cases h

/-- A session of one word, one byte and a read. -/
def hashBody : List Event := [.host (.write 0x3 0x61626364), .host (.read 0x2), .host (.write 0x4 0x65)]

/-- That session with its FINAL, one STATUS poll and the completion, begun in the middle of another one with an error. -/
def hashSession : State :=
  withEvents { hmacLongKey with err := .seq }
    (commandEvent .init :: hashBody ++ commandEvent .final :: [.host (.read 0x2)] ++ [.engine])

theorem hashSession_clean : endsClean 7 hashSession = true := by decide +kernel

theorem witness_HashSessionGivesTheDigest :
    hashBody.all Event.isCommandFree = true ∧ [Event.host (.read 0x2)].all Event.isCommandFree = true ∧
      hashSession.events = commandEvent .init :: hashBody ++ commandEvent .final :: [.host (.read 0x2)] ++ [.engine] ∧
      ∃ t : State, Host.Core.run Sys2Proof.core hashSession.events.length hashSession = .next t ∧
        t.core.err = .none :=
  ⟨by decide, by decide, rfl, of_endsClean hashSession_clean⟩

/-- A key of 4 bytes. -/
def hmacKeyBody : List Event := [.host (.write 0x3 0x61626364)]

/-- A message of one byte, after the key's job has completed. -/
def hmacMsgBody : List Event := [.host (.read 0x2), .engine, .host (.write 0x4 0x65)]

/-- The HMAC session of that key and message, with no poll at its end. -/
def hmacSession : State :=
  withEvents hashResult
    (commandEvent .hmacInit :: hmacKeyBody ++ commandEvent .hmacKeyEnd :: hmacMsgBody ++
      commandEvent .hmacFinal :: [] ++ [.engine])

theorem hmacSession_clean : endsClean 8 hmacSession = true := by decide +kernel

theorem witness_HmacSessionGivesTheCode :
    hmacKeyBody.all Event.isCommandFree = true ∧ hmacMsgBody.all Event.isCommandFree = true ∧
      ([] : List Event).all Event.isCommandFree = true ∧
      hmacSession.events = commandEvent .hmacInit :: hmacKeyBody ++ commandEvent .hmacKeyEnd :: hmacMsgBody ++
        commandEvent .hmacFinal :: [] ++ [.engine] ∧
      ∃ t : State, Host.Core.run Sys2Proof.core hmacSession.events.length hmacSession = .next t ∧
        t.core.err = .none :=
  ⟨by decide, by decide, rfl, rfl, of_endsClean hmacSession_clean⟩

theorem witness_WindowAddresses :
    (3 : Nat) < 4 ∧ (Config.coreBase + 64 < Config.coreBase ∨ Config.coreBase + 64 ≤ Config.coreBase + 64) :=
  ⟨by decide, .inr (Nat.le_refl _)⟩

theorem witness_FinishCompressesThePaddedTail : (copies 0x61 55).length < 64 ∧ (copies 0x61 56).length < 64 := by decide

end Sys2Proof.Tests
end

section
/-! PROOFS. spec/00_scope.md: the rotation of R21, and the window whose base R16 aligns. -/

namespace Sys2Proof.Machine

/-! ## Rotation (R21) -/

/-- The library reduces the amount modulo the width; below 32 that changes nothing, and what is left is R21's formula. -/
theorem rotl_eq_rotateLeft (x : Word) {n : Nat} (hn : n < 32) : rotl x n = x.rotateLeft n := by
  rw [BitVec.rotateLeft_def, Nat.mod_eq_of_lt hn, rotl]

/-- Settles O45: R21's formula is the library's rotation for every amount below 32. -/
theorem rotlIsRotation : Obligations.RotlIsRotation := by
  unfold Obligations.RotlIsRotation
  intro x n _ hn
  exact rotl_eq_rotateLeft x hn

/-! ## The address window (R16, R35, R75, R79) -/

theorem coreBase_mod_64 : Config.coreBase % 64 = 0 := Nat.mul_mod_right ..

theorem slotOfAddr_of_inside {addr : Nat} (h : Config.coreBase ≤ addr ∧ addr < Config.coreBase + 64) :
    slotOfAddr addr = some (BitVec.ofNat 4 (addr / 4)) := if_pos h

theorem slotOfAddr_of_outside {addr : Nat} (h : addr < Config.coreBase ∨ Config.coreBase + 64 ≤ addr) :
    slotOfAddr addr = none := if_neg (by omega)

theorem addrOfSlot_add_inside (idx : BitVec 4) {k : Nat} (hk : k < 4) :
    Config.coreBase ≤ addrOfSlot idx + k ∧ addrOfSlot idx + k < Config.coreBase + 64 := by
  have hidx : idx.toNat < 16 := idx.isLt
  unfold addrOfSlot
  omega

/-- R15: bits 5:2 of an address in a slot are the slot, since the aligned base has none of these bits. -/
theorem ofNat_addrOfSlot_add_div_four (idx : BitVec 4) {k : Nat} (hk : k < 4) :
    BitVec.ofNat 4 ((addrOfSlot idx + k) / 4) = idx := by
  have hbase := coreBase_mod_64
  have hidx : idx.toNat < 16 := idx.isLt
  have hword : (addrOfSlot idx + k) / 4 % 16 = idx.toNat := by
    unfold addrOfSlot
    omega
  exact BitVec.eq_of_toNat_eq hword

theorem slotOfAddr_addrOfSlot_add (idx : BitVec 4) {k : Nat} (hk : k < 4) :
    slotOfAddr (addrOfSlot idx + k) = some idx := by
  rw [slotOfAddr_of_inside (addrOfSlot_add_inside idx hk), ofNat_addrOfSlot_add_div_four idx hk]

/-- Settles O59: the base is aligned, so bits 5:2 of an address inside the window are its slot; outside, the guard fails. -/
theorem windowAddresses : Obligations.WindowAddresses := by
  unfold Obligations.WindowAddresses
  exact ⟨coreBase_mod_64, fun idx _ hk => slotOfAddr_addrOfSlot_add idx hk, fun _ h => slotOfAddr_of_outside h⟩

end Sys2Proof.Machine
end

section
/-! PROOFS. What the checks of a write and the byte path can do, for citing in the proofs about the state. -/

namespace Sys2Proof.Machine

/-! ## Checked writes (R251, R260, R261) -/

/-- A write either is accepted and has its effect, or changes at most the error register. -/
theorem CoreState.guarded_cases (c : CoreState) (v : Verdict) (effect : CoreState → CoreState) :
    (v = .accept ∧ c.guarded v effect = effect c) ∨ ∃ e, c.guarded v effect = { c with err := e } := by
  cases v with
  | accept => exact .inl ⟨rfl, rfl⟩
  | reject code => exact .inr ⟨_, c.raise_eq code⟩
  | ignore => exact .inr ⟨c.err, rfl⟩

/-- R260: exactly when a command is accepted. -/
theorem cmdCheck_accept_iff (c : CoreState) (cmd : Command) :
    cmdCheck c (some cmd) = .accept ↔
      cmd = .abort ∨
        c.job = .none ∧ (startsSession cmd = true ∨ c.err = .none ∧ cmdAllowed cmd c.mode c.phase = true) := by
  by_cases ha : cmd = .abort
  · simp [ha]
  by_cases hj : c.job = .none
  · cases hs : startsSession cmd with
    | true => simp [cmdCheck_startsSession c cmd hj hs, hj]
    | false =>
      rw [cmdCheck_finishing c cmd hj hs ha]
      by_cases he : c.err = .none <;> simp [ha, hj, he]
  · simp [cmdCheck_busy c (some cmd) (by simpa using ha) hj, ha, hj]

/-- R260: what a CMD write can do. -/
theorem CoreState.cmdWrite_cases (c : CoreState) (cmd : Option Command) :
    (∃ e, c.cmdWrite cmd = { c with err := e }) ∨
      ∃ cm, cmd = some cm ∧ cmdCheck c cmd = .accept ∧ c.cmdWrite cmd = c.runCommand cm := by
  rcases c.guarded_cases (cmdCheck c cmd)
    (fun c => match cmd with | some cmd => c.runCommand cmd | none => c) with ⟨hv, hw⟩ | ⟨e, hw⟩
  · cases cmd with
    | none => exact .inl ⟨c.err, hw⟩
    | some cm => exact .inr ⟨cm, rfl, hv, hw⟩
  · exact .inl ⟨e, hw⟩

/-- R261: what a data write can do. -/
theorem CoreState.dinWrite_cases (c : CoreState) (bs : List Byte) :
    (∃ e, c.dinWrite bs = { c with err := e }) ∨
      (dinCheck c bs.length = .accept ∧ c.dinWrite bs = c.pushBytes bs) :=
  (c.guarded_cases (dinCheck c bs.length) fun c => c.pushBytes bs).symm

/-- R102, R103: a data write runs its bytes through the checks of R261. -/
theorem exec_dataWrite {i : Instr} {bs : List Byte} (hd : isDataWrite i bs) (s : State) :
    exec i s = .next (s.mapCore fun c => c.dinWrite bs) := by
  obtain ⟨w, ⟨rfl, rfl⟩ | ⟨rfl, rfl⟩⟩ := hd
  · exact exec_wrDinWord w s
  · exact exec_wrDinByte w s

theorem isDataWrite_length_le {i : Instr} {bs : List Byte} (hd : isDataWrite i bs) : bs.length ≤ 4 := by
  obtain ⟨w, ⟨rfl, rfl⟩ | ⟨rfl, rfl⟩⟩ := hd <;> simp

/-- What a well-formed instruction can do to the core; a `wrCmd` in it holds a reserved word (R107). -/
theorem exec_core_cases_of_wf {i : Instr} {s t : State} (hwf : i.wf = true) (h : exec i s = .next t) :
    t.core = s.core ∨ t.core = s.core.cmdWrite none ∨
      (∃ cm : Command, i = cm.instr ∧ t.core = s.core.cmdWrite (some cm)) ∨
      ∃ bs, isDataWrite i bs ∧ t.core = s.core.dinWrite bs := by
  rcases exec_core_cases i h with hc | ⟨cmd, rfl, ⟨cm, rfl, hi⟩ | ⟨w, rfl, rfl⟩⟩ | ⟨bs, rfl, w, hw⟩
  · exact .inl hc
  · exact .inr (.inr (.inl ⟨cm, hi, rfl⟩))
  · have hres : decodeCmd w = none := Option.isNone_iff_eq_none.mp hwf
    exact .inr (.inl (by simp [hres]))
  · exact .inr (.inr (.inr ⟨bs, ⟨w, hw⟩, rfl⟩))

/-! ## One pushed byte (R174, R175, R201, R202) -/

/-- Everything one pushed byte can do: it goes to K, it is key byte 65, it goes to the block buffer, or it fills it. -/
theorem CoreState.pushByte_cases (c : CoreState) (b : Byte) :
    (∃ hk : c.keylen.val < 64, c.streamsToKey ∧
        c.pushByte b = { c with key := c.key.set c.keylen.val b, keylen := ⟨c.keylen.val + 1, by omega⟩ }) ∨
      (c.keylen.val = 64 ∧ c.streamsToKey ∧
        c.pushByte b =
          { c with
            keyhash := true, h := iv, blockbuf := c.blockbuf.set 0 b, fill := 1, msglen := 65
            job := .block (words c.key.toList) }) ∨
      (∃ hf : c.fill.val + 1 < 64, ¬c.streamsToKey ∧
        c.pushByte b =
          { c with blockbuf := c.blockbuf.set c.fill.val b, fill := ⟨c.fill.val + 1, hf⟩, msglen := c.msglen + 1 }) ∨
      (c.fill.val = 63 ∧ ¬c.streamsToKey ∧
        c.pushByte b =
          { c with
            blockbuf := c.blockbuf.set c.fill.val b, fill := 0, msglen := c.msglen + 1
            job := .block (words (c.blockbuf.set c.fill.val b).toList) }) := by
  by_cases hs : c.streamsToKey
  · rw [c.pushByte_key b hs.1 hs.2]
    by_cases hk : c.keylen.val < 64
    · exact .inl ⟨hk, hs, dif_pos hk⟩
    · exact .inr (.inl ⟨by omega, hs, dif_neg hk⟩)
  · rw [c.pushByte_msg b hs]
    by_cases hf : c.fill.val + 1 < 64
    · exact .inr (.inr (.inl ⟨hf, hs, dif_pos hf⟩))
    · exact .inr (.inr (.inr ⟨by omega, hs, dif_neg hf⟩))

theorem CoreState.streamlen_of_streamsToKey {c : CoreState} (h : c.streamsToKey) : c.streamlen = c.keylen.val :=
  if_pos h

theorem CoreState.streamlen_of_not_streamsToKey {c : CoreState} (h : ¬c.streamsToKey) : c.streamlen = c.msglen :=
  if_neg h

/-- R174: in the phases that take data, the bytes that do not go to K go to the block buffer. -/
theorem CoreState.streamsToBuffer_iff {c : CoreState} (hp : c.phase = .key ∨ c.phase = .msg) :
    c.streamsToBuffer ↔ ¬c.streamsToKey := by
  rcases hp with hp | hp <;> simp [CoreState.streamsToBuffer, CoreState.streamsToKey, hp]

/-- R173: every pushed byte makes the stream longer by one, the 65th key byte too. -/
theorem CoreState.pushByte_streamlen (c : CoreState) (b : Byte) : (c.pushByte b).streamlen = c.streamlen + 1 := by
  rcases c.pushByte_cases b with ⟨_, hs, hc⟩ | ⟨hk, hs, hc⟩ | ⟨_, hs, hc⟩ | ⟨_, hs, hc⟩
  · rw [hc, streamlen_of_streamsToKey hs]
    exact streamlen_of_streamsToKey hs
  · rw [hc, streamlen_of_streamsToKey hs, hk]
    exact streamlen_of_not_streamsToKey (by simp [CoreState.streamsToKey])
  · rw [hc, streamlen_of_not_streamsToKey hs]
    exact streamlen_of_not_streamsToKey hs
  · rw [hc, streamlen_of_not_streamsToKey hs]
    exact streamlen_of_not_streamsToKey hs

end Sys2Proof.Machine
end

section
/-! PROOFS. spec/10_state.md section 4: the invariant of R33, R52 to R54 and R58, at reset and over every step. -/

namespace Sys2Proof.Machine

/-! ## Reset and commands (R59, R178, R200, R237) -/

/-- Settles O10: R59's values satisfy each clause. -/
theorem invariantHoldsAtReset : Obligations.InvariantHoldsAtReset where
  session := by decide
  hashedKeyFull := by decide
  hashedKeyLen := by decide
  noSession := by decide
  plainKey := by decide
  hmacMsg := by decide
  fillCongruent := by decide
  resultFill := by decide
  lenBound := by decide
  keyZero := fun i hi _ => Vector.getElem_replicate hi
  jobFits := trivial

/-- No clause of the invariant speaks of the error register. -/
theorem CoreState.Inv.withErr {c : CoreState} (h : c.Inv) (e : ErrCode) : ({ c with err := e } : CoreState).Inv :=
  { h with }

/-- R178, R200: a new session has the invariant, whatever was before it. -/
theorem CoreState.startSession_inv {c : CoreState} (hj : c.job = .none) {m : Mode} {p : Phase}
    (hs : m = .hash ∧ p = .msg ∨ m = .hmac ∧ p = .key) : (c.startSession m p).Inv where
  session := by rcases hs with ⟨rfl, rfl⟩ | ⟨rfl, rfl⟩ <;> simp [sessionPairs]
  hashedKeyFull := by simp
  hashedKeyLen := by simp
  noSession := by rcases hs with ⟨rfl, rfl⟩ | ⟨rfl, rfl⟩ <;> simp
  plainKey := by simp
  hmacMsg := by rcases hs with ⟨rfl, rfl⟩ | ⟨rfl, rfl⟩ <;> simp
  fillCongruent := by simp
  resultFill := by simp
  lenBound := Nat.zero_le _
  keyZero := fun i hi _ => Vector.getElem_replicate hi
  jobFits := by simp [CoreState.jobFits, hj]

/-- R54: a job that fits its session state can start in any session. -/
theorem CoreState.Inv.startJob {c : CoreState} (h : c.Inv) {j : Job} (hm : c.mode ≠ .none)
    (hf : (c.startJob j).jobFits) : (c.startJob j).Inv :=
  { h with
    noSession := fun hn => absurd hn hm
    jobFits := hf }

/-- R237: the session commands start a session or give the reset state; the others start their job. -/
theorem CoreState.Inv.runCommand {c : CoreState} (h : c.Inv) {cmd : Command}
    (hv : cmdCheck c (some cmd) = .accept) : (c.runCommand cmd).Inv := by
  rw [cmdCheck_accept_iff] at hv
  cases cmd with
  | abort => exact invariantHoldsAtReset
  | init =>
    have hj : c.job = .none := by simpa [startsSession] using hv
    exact startSession_inv hj (.inl ⟨rfl, rfl⟩)
  | hmacInit =>
    have hj : c.job = .none := by simpa [startsSession] using hv
    exact startSession_inv hj (.inr ⟨rfl, rfl⟩)
  | final =>
    obtain ⟨-, -, hm, hp⟩ : c.job = .none ∧ c.err = .none ∧ c.mode = .hash ∧ c.phase = .msg := by
      simpa [startsSession, cmdAllowed] using hv
    exact h.startJob (by simp [hm]) ⟨hm, hp⟩
  | hmacKeyEnd =>
    obtain ⟨-, -, hm, hp⟩ : c.job = .none ∧ c.err = .none ∧ c.mode = .hmac ∧ c.phase = .key := by
      simpa [startsSession, cmdAllowed] using hv
    exact h.startJob (by simp [hm]) ⟨hm, hp⟩
  | hmacFinal =>
    obtain ⟨-, -, hm, hp⟩ : c.job = .none ∧ c.err = .none ∧ c.mode = .hmac ∧ c.phase = .msg := by
      simpa [startsSession, cmdAllowed] using hv
    exact h.startJob (by simp [hm]) ⟨hm, hp⟩

theorem CoreState.Inv.cmdWrite {c : CoreState} (h : c.Inv) (cmd : Option Command) : (c.cmdWrite cmd).Inv := by
  rcases c.cmdWrite_cases cmd with ⟨e, hc⟩ | ⟨cm, rfl, hv, hc⟩
  · rw [hc]
    exact h.withErr e
  · rw [hc]
    exact h.runCommand hv

/-! ## Data writes (R174 to R177, R201, R202) -/

theorem CoreState.Inv.mode_ne_none_of_takesData {c : CoreState} (h : c.Inv) (hp : c.phase = .key ∨ c.phase = .msg) :
    c.mode ≠ .none := by
  intro hm
  have hn := (h.noSession hm).1
  simp [hn] at hp

/-- R54, R174: a BLOCK job runs in the session states whose bytes go to the block buffer. -/
theorem CoreState.jobFits_startJob_block (c : CoreState) (blk : Block) :
    (c.startJob (.block blk)).jobFits ↔ c.streamsToBuffer := Iff.rfl

/-- R201: one more byte of K. -/
theorem CoreState.Inv.keyByte {c : CoreState} (h : c.Inv) (hs : c.streamsToKey) (hk : c.keylen.val < 64) (b : Byte) :
    ({ c with key := c.key.set c.keylen.val b, keylen := ⟨c.keylen.val + 1, by omega⟩ } : CoreState).Inv :=
  { h with
    hashedKeyFull := fun hh => absurd (hs.2.symm.trans hh) Bool.false_ne_true
    keyZero := fun i hi hle => by
      have hlt : c.keylen.val < i := hle
      rw [Vector.getElem_set_ne _ _ hlt.ne]
      exact h.keyZero i hi hlt.le }

/-- R202: key byte 65 is the first byte of the buffer, after the 64 bytes of K. -/
theorem CoreState.Inv.keyByte65 {c : CoreState} (h : c.Inv) (hkey : c.phase = .key) (hk : c.keylen.val = 64)
    (buf : Vector Byte 64) (blk : Block) :
    ({ c with keyhash := true, h := iv, blockbuf := buf, fill := 1, msglen := 65, job := .block blk } :
      CoreState).Inv :=
  { h with
    hashedKeyFull := fun _ => hk
    hashedKeyLen := fun _ _ => Nat.le_refl 65
    noSession := fun hm => absurd hm (h.mode_ne_none_of_takesData (.inl hkey))
    plainKey := fun _ hh => by cases hh
    hmacMsg := fun _ hm => by simp [hkey] at hm
    fillCongruent := fun _ _ => show 65 % 64 = 1 by decide
    resultFill := fun hr => by simp [hkey] at hr
    lenBound := show 65 ≤ Config.maxLen by decide
    jobFits := .inr ⟨hkey, rfl⟩ }

/-- R175: a byte into the block buffer, with or without the job that a full buffer starts. -/
theorem CoreState.Inv.bufferByte {c : CoreState} (h : c.Inv) (hp : c.phase = .key ∨ c.phase = .msg)
    (hs : ¬c.streamsToKey) (hlen : c.msglen + 1 ≤ Config.maxLen) {f : Fin 64} (hf : f.val = (c.fill.val + 1) % 64)
    {j : Job} (hj : (c.startJob j).jobFits) (buf : Vector Byte 64) :
    ({ c with blockbuf := buf, fill := f, msglen := c.msglen + 1, job := j } : CoreState).Inv :=
  have hresult : c.phase ≠ .result := by rcases hp with hp | hp <;> simp [hp]
  have hcong : c.msglen % 64 = c.fill.val := h.fillCongruent hs hresult
  { h with
    hashedKeyLen := fun hp hh => Nat.le_succ_of_le (h.hashedKeyLen hp hh)
    noSession := fun hm => absurd hm (h.mode_ne_none_of_takesData hp)
    plainKey := fun hp hh => absurd ⟨hp, hh⟩ hs
    hmacMsg := fun hm hp => Nat.le_succ_of_le (h.hmacMsg hm hp)
    fillCongruent := fun _ _ => show (c.msglen + 1) % 64 = f.val by omega
    resultFill := fun hr => absurd hr hresult
    lenBound := hlen
    jobFits := hj }

/-- One byte that fits keeps the invariant. A BLOCK job of an earlier byte of the same write may be in flight. -/
theorem CoreState.Inv.pushByte {c : CoreState} (h : c.Inv) (hp : c.phase = .key ∨ c.phase = .msg) (b : Byte)
    (hlen : c.streamlen + 1 ≤ Config.maxLen) : (c.pushByte b).Inv := by
  rcases c.pushByte_cases b with ⟨hk, hs, hc⟩ | ⟨hk, hs, hc⟩ | ⟨hf, hs, hc⟩ | ⟨hf, hs, hc⟩ <;> rw [hc]
  · exact h.keyByte hs hk b
  · exact h.keyByte65 hs.1 hk _ _
  · rw [streamlen_of_not_streamsToKey hs] at hlen
    exact h.bufferByte hp hs hlen (Nat.mod_eq_of_lt hf).symm h.jobFits _
  · rw [streamlen_of_not_streamsToKey hs] at hlen
    exact h.bufferByte hp hs hlen (by simp [hf]) ((jobFits_startJob_block c _).mpr ((streamsToBuffer_iff hp).mpr hs)) _

theorem CoreState.Inv.pushBytes {bs : List Byte} :
    ∀ {c : CoreState}, c.Inv → (c.phase = .key ∨ c.phase = .msg) →
      c.streamlen + bs.length ≤ Config.maxLen → (c.pushBytes bs).Inv := by
  induction bs with
  | nil => intro c h _ _; exact h
  | cons b bs ih =>
    intro c h hp hlen
    obtain ⟨-, -, hphase, -⟩ := c.pushByte_frame b
    rw [List.length_cons] at hlen
    exact ih (h.pushByte hp b (by omega)) (by rwa [hphase]) (by rw [c.pushByte_streamlen]; omega)

theorem CoreState.Inv.dinWrite {c : CoreState} (h : c.Inv) (bs : List Byte) : (c.dinWrite bs).Inv := by
  rcases c.dinWrite_cases bs with ⟨e, hc⟩ | ⟨hv, hc⟩
  · rw [hc]
    exact h.withErr e
  · rw [hc]
    obtain ⟨-, -, hp, hlen⟩ := (dinCheck_accept_iff c bs.length).mp hv
    exact h.pushBytes hp hlen

theorem exec_keeps_inv {i : Instr} {s t : State} (h : s.core.Inv) (he : exec i s = .next t) : t.core.Inv := by
  rcases exec_core_cases i he with hc | ⟨cmd, rfl, -⟩ | ⟨bs, rfl, -⟩
  · rw [hc]
    exact h
  · exact h.cmdWrite cmd
  · exact h.dinWrite bs

/-! ## Completions (R143, R144, R180, R204, R208) -/

/-- R144 -/
theorem CoreState.Inv.blockDone {c : CoreState} (h : c.Inv) (h' : Hash) (e' : Engine) :
    ({ c with h := h', eng := e', job := .none } : CoreState).Inv :=
  { h with
    noSession := fun hm =>
      have ⟨hphase, _, hfill⟩ := h.noSession hm
      ⟨hphase, rfl, hfill⟩
    jobFits := trivial }

/-- R180, R208: a session that ends in RESULT has its empty buffer. -/
theorem CoreState.Inv.resultDone {c : CoreState} (h : c.Inv) (hm : c.mode ≠ .none) (h' : Hash) (e' : Engine) :
    ({ c with h := h', eng := e', fill := 0, phase := .result, job := .none } : CoreState).Inv :=
  { h with
    session := by cases hc : c.mode <;> simp_all [sessionPairs]
    hashedKeyLen := fun hp => by cases hp
    noSession := fun hn => absurd hn hm
    plainKey := fun hp => by cases hp
    hmacMsg := fun _ hp => by cases hp
    fillCongruent := fun _ hr => absurd rfl hr
    resultFill := fun _ => rfl
    jobFits := trivial }

/-- R204: the message phase begins after the one block of the inner pad. K changes only if it was hashed, and then it was
full, so no byte of it lies beyond `keylen`. -/
theorem CoreState.Inv.keyEndDone {c : CoreState} (h : c.Inv) (hm : c.mode = .hmac) (h' : Hash) (e' : Engine)
    {k' : Vector Byte 64} (hk : c.keyhash = false → k' = c.key) :
    ({ c with h := h', eng := e', key := k', msglen := 64, fill := 0, phase := .msg, job := .none } :
      CoreState).Inv :=
  { h with
    session := by simp [hm, sessionPairs]
    hashedKeyLen := fun hp => by cases hp
    noSession := fun hn => by simp [hm] at hn
    plainKey := fun hp => by cases hp
    hmacMsg := fun _ _ => Nat.le_refl 64
    fillCongruent := fun _ _ => show 64 % 64 = 0 by decide
    resultFill := fun hr => by cases hr
    lenBound := show 64 ≤ Config.maxLen by decide
    keyZero := fun i hi (hle : c.keylen.val ≤ i) => by
      cases hh : c.keyhash with
      | false => simpa [hk hh] using h.keyZero i hi hle
      | true =>
        have hfull := h.hashedKeyFull hh
        omega
    jobFits := trivial }

theorem CoreState.Inv.mode_ne_none_of_busy {c : CoreState} (h : c.Inv) (hj : c.job ≠ .none) : c.mode ≠ .none :=
  fun hm => hj (h.noSession hm).2.1

/-- R143: every completion keeps the invariant; which session state its job runs in is the invariant's last clause. -/
theorem CoreState.Inv.complete {c : CoreState} (h : c.Inv) : c.complete.Inv := by
  rcases c.complete_cases with ⟨-, hc⟩ | ⟨blk, h', e', -, hc⟩ | ⟨h', e', hj, hc⟩ | ⟨h', e', k', hj, hk, hc⟩ <;> rw [hc]
  · exact h
  · exact h.blockDone h' e'
  · have hbusy : c.job ≠ .none := by rcases hj with hj | hj <;> simp [hj]
    exact h.resultDone (h.mode_ne_none_of_busy hbusy) h' e'
  · have hfits := h.jobFits
    rw [CoreState.jobFits, hj] at hfits
    exact h.keyEndDone hfits.1 h' e' hk

/-- Settles O11: one case per kind of step: a transaction, a completion, a reset. -/
theorem everyStepKeepsTheInvariant : Obligations.EveryStepKeepsTheInvariant := by
  unfold Obligations.EveryStepKeepsTheInvariant
  intro s t h hst
  rcases step_cases hst with ⟨-, rfl⟩ | ⟨txn, rest, -, he⟩ | ⟨rest, -, rfl⟩ | ⟨rest, -, rfl⟩
  · exact h.complete
  · exact exec_keeps_inv (s := { s with events := rest }) h he
  · exact h.complete
  · exact invariantHoldsAtReset

/-! ## Jobs start without an error (R58, item 7) -/

@[simp] theorem CoreState.complete_job (c : CoreState) : c.complete.job = .none := by
  rcases c.complete_cases with ⟨hj, hc⟩ | ⟨blk, h', e', -, hc⟩ | ⟨h', e', -, hc⟩ | ⟨h', e', k', -, -, hc⟩ <;> rw [hc]
  exact hj

/-- R251, R256: of the commands only FINAL, HMAC_KEY_END and HMAC_FINAL start a job, and only with no error recorded. -/
theorem CoreState.err_of_cmdWrite_starts_job {c : CoreState} {cmd : Option Command} (hj : c.job = .none)
    (hs : (c.cmdWrite cmd).job ≠ .none) : c.err = .none ∧ (c.cmdWrite cmd).err = .none := by
  rcases c.cmdWrite_cases cmd with ⟨e, hc⟩ | ⟨cm, rfl, hv, hc⟩ <;> rw [hc] at hs ⊢
  · exact absurd hj hs
  · rw [cmdCheck_accept_iff] at hv
    cases cm <;> simp_all [CoreState.runCommand, startsSession]

/-- R261: a data write that is accepted finds no error and records none. -/
theorem CoreState.err_of_dinWrite_starts_job {c : CoreState} {bs : List Byte} (hj : c.job = .none)
    (hs : (c.dinWrite bs).job ≠ .none) : c.err = .none ∧ (c.dinWrite bs).err = .none := by
  rcases c.dinWrite_cases bs with ⟨e, hc⟩ | ⟨hv, hc⟩ <;> rw [hc] at hs ⊢
  · exact absurd hj hs
  · obtain ⟨-, herr, -, -⟩ := (dinCheck_accept_iff c bs.length).mp hv
    obtain ⟨-, -, -, hframe⟩ := CoreState.pushBytes_frame bs c
    exact ⟨herr, hframe.trans herr⟩

/-- Settles O12: a completion and a reset leave no job, and a transaction starts one only by an accepted write. -/
theorem jobsStartOnlyWithoutError : Obligations.JobsStartOnlyWithoutError := by
  unfold Obligations.JobsStartOnlyWithoutError
  intro s t hst hidle hjob
  rcases step_cases hst with ⟨-, rfl⟩ | ⟨txn, rest, -, he⟩ | ⟨rest, -, rfl⟩ | ⟨rest, -, rfl⟩
  · exact absurd (CoreState.complete_job _) hjob
  · rcases exec_core_cases _ he with hc | ⟨cmd, rfl, -⟩ | ⟨bs, rfl, -⟩
    · rw [hc] at hjob
      exact absurd hidle hjob
    · exact CoreState.err_of_cmdWrite_starts_job hidle hjob
    · exact CoreState.err_of_dinWrite_starts_job hidle hjob
  · exact absurd (CoreState.complete_job _) hjob
  · exact absurd rfl hjob

end Sys2Proof.Machine
end

section
/-! PROOFS. spec/10_state.md sections 1 and 2: which instructions start a job and which change H. -/

namespace Sys2Proof.Machine

/-! ## Jobs (R54, R181, R296) -/

theorem CoreState.cmdWrite_of_accept {c : CoreState} {cmd : Command} (hv : cmdCheck c (some cmd) = .accept) :
    c.cmdWrite (some cmd) = c.runCommand cmd := by
  rw [CoreState.cmdWrite, hv, guarded_accept]

theorem CoreState.dinWrite_of_accept {c : CoreState} {bs : List Byte} (hv : dinCheck c bs.length = .accept) :
    c.dinWrite bs = c.pushBytes bs := by
  rw [CoreState.dinWrite, hv, guarded_accept]

/-- R260: with no job in flight, FINAL, HMAC_KEY_END and HMAC_FINAL leave one where R254 allows them. -/
theorem CoreState.cmdWrite_job_iff {c : CoreState} (hj : c.job = .none) (cmd : Command) :
    (c.cmdWrite (some cmd)).job ≠ .none ↔
      c.err = .none ∧ startsSession cmd = false ∧ cmd ≠ .abort ∧ cmdAllowed cmd c.mode c.phase = true := by
  constructor
  · intro hs
    rcases c.cmdWrite_cases (some cmd) with ⟨e, hc⟩ | ⟨_, ⟨⟩, hv, hc⟩ <;> rw [hc] at hs
    · exact absurd hj hs
    · rw [cmdCheck_accept_iff] at hv
      cases cmd <;> simp_all [CoreState.runCommand, startsSession]
  · rintro ⟨herr, hs, ha, hallowed⟩
    have hv : cmdCheck c (some cmd) = .accept := (cmdCheck_accept_iff c cmd).mpr (.inr ⟨hj, .inr ⟨herr, hallowed⟩⟩)
    rw [cmdWrite_of_accept hv]
    cases cmd <;> simp_all [CoreState.runCommand, startsSession]

/-- R260: a reserved word starts nothing. -/
theorem CoreState.cmdWrite_none_job (c : CoreState) : (c.cmdWrite none).job = c.job := by
  rcases c.cmdWrite_cases none with ⟨e, hc⟩ | ⟨cm, hcm, -, -⟩
  · rw [hc]
  · cases hcm

/-- R175, R202: bytes leave a job in flight exactly if one was, or they fill the block buffer or go past the 64 of K. -/
theorem CoreState.pushBytes_job_iff {bs : List Byte} :
    ∀ c : CoreState, (c.pushBytes bs).job ≠ .none ↔
      c.job ≠ .none ∨ (¬c.streamsToKey ∧ 64 ≤ c.fill.val + bs.length) ∨
        (c.streamsToKey ∧ 64 < c.keylen.val + bs.length) := by
  induction bs with
  | nil =>
    intro c
    have hfill := c.fill.isLt
    have hkeylen := c.keylen.isLt
    have hroom : ¬64 ≤ c.fill.val := by omega
    have hkey : ¬64 < c.keylen.val := by omega
    simp [hroom, hkey]
  | cons b bs ih =>
    intro c
    have hshift : ∀ n, n + 1 + bs.length = n + (bs.length + 1) := fun n => by omega
    rw [pushBytes_cons, ih, List.length_cons]
    rcases c.pushByte_cases b with ⟨hk, hs, hc⟩ | ⟨hk, hs, hc⟩ | ⟨hf, hs, hc⟩ | ⟨hf, hs, hc⟩
    · have hjob : (c.pushByte b).job = c.job := by rw [hc]
      have hkeylen : (c.pushByte b).keylen.val = c.keylen.val + 1 := by rw [hc]
      have hs' : (c.pushByte b).streamsToKey := by rw [hc]; exact hs
      simp [hs, hs', hjob, hkeylen, hshift]
    · simp [hs, hk, hc]
    · have hjob : (c.pushByte b).job = c.job := by rw [hc]
      have hfill : (c.pushByte b).fill.val = c.fill.val + 1 := by rw [hc]
      have hs' : ¬(c.pushByte b).streamsToKey := by rw [hc]; exact hs
      simp [hs, hs', hjob, hfill, hshift]
    · have hfull : 64 ≤ 63 + (bs.length + 1) := by omega
      simp [hs, hf, hc, hfull]

/-- R261: with no job in flight, the data writes that leave one. A word or a byte past K always fits in the stream. -/
theorem CoreState.dinWrite_job_iff {c : CoreState} (hj : c.job = .none) {bs : List Byte} (hlen : bs.length ≤ 4) :
    (c.dinWrite bs).job ≠ .none ↔
      c.err = .none ∧
        ((c.streamsToBuffer ∧ c.msglen + bs.length ≤ Config.maxLen ∧ 64 ≤ c.fill.val + bs.length) ∨
          (c.streamsToKey ∧ 64 < c.keylen.val + bs.length)) := by
  constructor
  · intro hs
    rcases c.dinWrite_cases bs with ⟨e, hc⟩ | ⟨hv, hc⟩ <;> rw [hc] at hs
    · exact absurd hj hs
    · obtain ⟨-, herr, hp, hfits⟩ := (dinCheck_accept_iff c bs.length).mp hv
      refine ⟨herr, ?_⟩
      rcases (pushBytes_job_iff c).mp hs with hbusy | ⟨hbuf, hfill⟩ | hkey
      · exact absurd hj hbusy
      · rw [streamlen_of_not_streamsToKey hbuf] at hfits
        exact .inl ⟨(streamsToBuffer_iff hp).mpr hbuf, hfits, hfill⟩
      · exact .inr hkey
  · rintro ⟨herr, ⟨hbuf, hfits, hfill⟩ | ⟨hkey, hover⟩⟩
    · have hp : c.phase = .key ∨ c.phase = .msg := hbuf.symm.imp_left And.left
      have hs := (streamsToBuffer_iff hp).mp hbuf
      rw [dinWrite_of_accept ((dinCheck_accept_iff c _).mpr
        ⟨hj, herr, hp, by rwa [streamlen_of_not_streamsToKey hs]⟩)]
      exact (pushBytes_job_iff c).mpr (.inr (.inl ⟨hs, hfill⟩))
    · have hfits : c.keylen.val + bs.length ≤ Config.maxLen := by
        have hkeylen := c.keylen.isLt
        have hmax : 68 ≤ Config.maxLen := by decide
        omega
      rw [dinWrite_of_accept ((dinCheck_accept_iff c _).mpr
        ⟨hj, herr, .inl hkey.1, by rwa [streamlen_of_streamsToKey hkey]⟩)]
      exact (pushBytes_job_iff c).mpr (.inr (.inr ⟨hkey, hover⟩))

theorem exec_command_starts_job {cmd : Command} {s t : State} (hj : s.core.job = .none)
    (he : exec cmd.instr s = .next t)
    (h : s.core.err = .none ∧ startsSession cmd = false ∧ cmd ≠ .abort ∧
      cmdAllowed cmd s.core.mode s.core.phase = true) : t.core.job ≠ .none := by
  rw [exec_command] at he
  cases he
  exact (CoreState.cmdWrite_job_iff hj cmd).mpr h

/-- Settles O34: an instruction that starts a job is an accepted finishing command or data write; and each of these does. -/
theorem writesThatStartAJob : Obligations.WritesThatStartAJob := by
  unfold Obligations.WritesThatStartAJob
  intro i s t hwf hj he
  constructor
  · intro hs
    rcases exec_core_cases_of_wf hwf he with hc | hc | ⟨cmd, rfl, hc⟩ | ⟨bs, hd, hc⟩ <;> rw [hc] at hs
    · exact absurd hj hs
    · rw [CoreState.cmdWrite_none_job] at hs
      exact absurd hj hs
    · obtain ⟨herr, hsess, ha, hallowed⟩ := (CoreState.cmdWrite_job_iff hj cmd).mp hs
      refine ⟨herr, ?_⟩
      cases cmd <;> simp_all [startsSession, cmdAllowed, Command.instr]
    · obtain ⟨herr, hjob⟩ := (CoreState.dinWrite_job_iff hj (isDataWrite_length_le hd)).mp hs
      exact ⟨herr, .inr (.inr (.inr ⟨bs, hd, hjob⟩))⟩
  · rintro ⟨herr, ⟨rfl, hm, hp⟩ | ⟨rfl, hm, hp⟩ | ⟨rfl, hm, hp⟩ | ⟨bs, hd, hjob⟩⟩
    · exact exec_command_starts_job (cmd := .final) hj he ⟨herr, rfl, by decide, by simp [cmdAllowed, hm, hp]⟩
    · exact exec_command_starts_job (cmd := .hmacKeyEnd) hj he ⟨herr, rfl, by decide, by simp [cmdAllowed, hm, hp]⟩
    · exact exec_command_starts_job (cmd := .hmacFinal) hj he ⟨herr, rfl, by decide, by simp [cmdAllowed, hm, hp]⟩
    · rw [exec_dataWrite hd] at he
      cases he
      exact (CoreState.dinWrite_job_iff hj (isDataWrite_length_le hd)).mpr ⟨herr, hjob⟩

/-! ## The hash state (R30, R202, R236, R294) -/

/-- R260: of the commands, those that start over change H. -/
theorem CoreState.cmdWrite_h (c : CoreState) (cmd : Option Command) :
    (c.cmdWrite cmd).h = c.h ∨ ∃ cm, cmd = some cm ∧ cm.instr ∈ startsOver := by
  rcases c.cmdWrite_cases cmd with ⟨e, hc⟩ | ⟨cm, rfl, -, hc⟩ <;> rw [hc]
  · exact .inl rfl
  · cases cm <;> simp [CoreState.runCommand, Command.instr, startsOver]

/-- R175: a byte into the block buffer leaves H to the ENGINE. -/
theorem CoreState.msgPushByte_frame (c : CoreState) (b : Byte) :
    (c.msgPushByte b).h = c.h ∧ (c.msgPushByte b).phase = c.phase ∧ (c.msgPushByte b).keyhash = c.keyhash := by
  unfold CoreState.msgPushByte
  split <;> simp

/-- The same for all the bytes of a write. -/
theorem CoreState.pushBytes_buffer_frame {bs : List Byte} :
    ∀ {c : CoreState}, ¬c.streamsToKey → (c.pushBytes bs).h = c.h ∧ (c.pushBytes bs).keyhash = c.keyhash := by
  induction bs with
  | nil => intro c _; exact ⟨rfl, rfl⟩
  | cons b bs ih =>
    intro c hs
    rw [pushBytes_cons, c.pushByte_msg b hs]
    obtain ⟨hh, hphase, hkeyhash⟩ := c.msgPushByte_frame b
    have hs' : ¬(c.msgPushByte b).streamsToKey := by rwa [CoreState.streamsToKey, hphase, hkeyhash]
    obtain ⟨ihh, ihkeyhash⟩ := ih hs'
    exact ⟨ihh.trans hh, ihkeyhash.trans hkeyhash⟩

/-- R201, R202: bytes change H only by the 65th key byte. -/
theorem CoreState.pushBytes_h {bs : List Byte} :
    ∀ c : CoreState, (c.pushBytes bs).h = c.h ∨
      c.streamsToKey ∧ (c.pushBytes bs).keyhash = true ∧ (c.pushBytes bs).h = iv := by
  induction bs with
  | nil => intro c; exact .inl rfl
  | cons b bs ih =>
    intro c
    by_cases hs : c.streamsToKey
    · rw [pushBytes_cons]
      rcases c.pushByte_cases b with ⟨hk, -, hc⟩ | ⟨hk, -, hc⟩ | ⟨-, hs', -⟩ | ⟨-, hs', -⟩
      · rw [hc]
        exact ih _
      · have hbuf : ¬(c.pushByte b).streamsToKey := by simp [hc, CoreState.streamsToKey]
        obtain ⟨hh, hkeyhash⟩ := pushBytes_buffer_frame (bs := bs) hbuf
        exact .inr ⟨hs, by rw [hkeyhash, hc], by rw [hh, hc]⟩
      · exact absurd hs hs'
      · exact absurd hs hs'
    · exact .inl (pushBytes_buffer_frame hs).1

/-- Settles O36: reads, ignored and rejected writes leave H, and so do all accepted ones but the four. -/
theorem whichInstructionsChangeTheHash : Obligations.WhichInstructionsChangeTheHash := by
  unfold Obligations.WhichInstructionsChangeTheHash
  intro i s t hwf he hne
  rcases exec_core_cases_of_wf hwf he with hc | hc | ⟨cmd, rfl, hc⟩ | ⟨bs, hd, hc⟩ <;> rw [hc] at hne ⊢
  · exact absurd rfl hne
  · obtain ⟨_, ⟨⟩, -⟩ := (s.core.cmdWrite_h none).resolve_left hne
  · obtain ⟨_, ⟨⟩, hover⟩ := (s.core.cmdWrite_h (some cmd)).resolve_left hne
    exact .inl hover
  · rcases s.core.dinWrite_cases bs with ⟨e, hw⟩ | ⟨-, hw⟩ <;> rw [hw] at hne ⊢
    · exact absurd rfl hne
    · exact .inr ⟨⟨bs, hd⟩, (CoreState.pushBytes_h s.core).resolve_left hne⟩

end Sys2Proof.Machine
end

section
/-! PROOFS. spec/10_state.md sections 3 to 5: the STATUS register, what a read can see, and the reset values. -/

namespace Sys2Proof.Machine

/-! ## The fields of STATUS (R38 to R46) -/

/-- A value of `n` bits at bit `k` of a word shows nothing in a field that lies beside it. -/
theorem extractLsb'_shiftLeft_of_disjoint {x : Word} {n k start len : Nat} (hx : x.toNat < 2 ^ n)
    (h : start + len ≤ k ∨ k + n ≤ start) : (x <<< k).extractLsb' start len = 0#len := by
  ext i hi
  have hbit : ∀ j, n ≤ j → x.getLsbD j = false := fun j hj =>
    Nat.testBit_eq_false_of_lt (hx.trans_le (Nat.pow_le_pow_right (by decide) hj))
  rcases h with h | h
  · have hlow : start + i < k := by omega
    simp [BitVec.getElem_extractLsb', hlow]
  · simp [BitVec.getElem_extractLsb', hbit (start + i - k) (by omega)]

@[simp] theorem flag_shiftLeft_beside (b : Bool) {k start len : Nat} (h : start + len ≤ k ∨ k + 1 ≤ start) :
    (flag b <<< k).extractLsb' start len = 0#len :=
  extractLsb'_shiftLeft_of_disjoint (by cases b <;> decide) h

@[simp] theorem flag_above (b : Bool) {start len : Nat} (h : 1 ≤ start) : (flag b).extractLsb' start len = 0#len := by
  simpa using flag_shiftLeft_beside b (k := 0) (len := len) (.inr h)

@[simp] theorem Mode.code_shiftLeft_beside (m : Mode) {k start len : Nat} (h : start + len ≤ k ∨ k + 2 ≤ start) :
    (m.code <<< k).extractLsb' start len = 0#len :=
  extractLsb'_shiftLeft_of_disjoint (by cases m <;> decide) h

@[simp] theorem Phase.code_shiftLeft_beside (p : Phase) {k start len : Nat} (h : start + len ≤ k ∨ k + 2 ≤ start) :
    (p.code <<< k).extractLsb' start len = 0#len :=
  extractLsb'_shiftLeft_of_disjoint (by cases p <;> decide) h

@[simp] theorem ErrCode.code_shiftLeft_beside (e : ErrCode) {k start len : Nat}
    (h : start + len ≤ k ∨ k + 4 ≤ start) : (e.code <<< k).extractLsb' start len = 0#len :=
  extractLsb'_shiftLeft_of_disjoint (by cases e <;> decide) h

@[simp] theorem fill_shiftLeft_beside (f : Fin 64) {k start len : Nat} (h : start + len ≤ k ∨ k + 6 ≤ start) :
    (BitVec.ofNat 32 f.val <<< k).extractLsb' start len = 0#len :=
  extractLsb'_shiftLeft_of_disjoint (n := 6) (by rw [BitVec.toNat_ofNat]; omega) h

/-- Settles O17: each field of STATUS lies beside the places of all parts but its own. -/
theorem statusReadAndLayout : Obligations.StatusReadAndLayout := by
  unfold Obligations.StatusReadAndLayout
  refine ⟨rfl, fun s c w => ⟨rfl, rfl, ?busy, ?done, ?mode, ?phase, ?keyhash, ?bit7, ?err, ?bits12, ?fill, ?bits22⟩⟩ <;>
    simp (disch := decide) only [status, BitVec.extractLsb'_or, flag_shiftLeft_beside, flag_above,
      Mode.code_shiftLeft_beside, Phase.code_shiftLeft_beside, ErrCode.code_shiftLeft_beside, fill_shiftLeft_beside,
      BitVec.or_zero, BitVec.zero_or]
  case busy => by_cases hj : c.job = .none <;> simp [CoreState.busy, flag, hj]
  case done => by_cases hp : c.phase = .result <;> simp [CoreState.done, flag, hp]
  case mode => cases c.mode <;> decide
  case phase => cases c.phase <;> decide
  case keyhash => cases c.keyhash <;> decide
  case err => cases c.err <;> decide
  case bit7 | bits12 | bits22 => rfl
  case fill =>
    have hfill := c.fill.isLt
    rw [BitVec.extractLsb'_toNat, BitVec.toNat_shiftLeft, BitVec.toNat_ofNat]
    omega

/-! ## What a read can see (R57, R231 to R235, R271) -/

/-- The bus reads: a constant, STATUS, or a word of H. -/
theorem exec_read_cases (idx : BitVec 4) :
    (∃ v, ∀ s, exec (decode (.read idx)) s = .next (s.withRdata v)) ∨
      (∀ s, exec (decode (.read idx)) s = .next (s.withRdata (status s.core))) ∨
      ∃ word, ∀ s, exec (decode (.read idx)) s = .next (s.readHash word) := by
  unfold decode decodeRead
  dsimp only
  split
  · exact .inl ⟨_, fun _ => rfl⟩
  · exact .inl ⟨_, fun _ => rfl⟩
  · exact .inr (.inl fun _ => rfl)
  · exact .inl ⟨_, fun _ => rfl⟩
  · exact .inl ⟨_, fun _ => rfl⟩
  · exact .inr (.inr ⟨_, fun _ => rfl⟩)
  · exact .inr (.inr ⟨_, fun _ => rfl⟩)
  · exact .inr (.inr ⟨_, fun _ => rfl⟩)
  · exact .inr (.inr ⟨_, fun _ => rfl⟩)
  · exact .inr (.inr ⟨_, fun _ => rfl⟩)
  · split
    · exact .inl ⟨_, fun _ => rfl⟩
    · exact .inl ⟨_, fun _ => rfl⟩

/-- Settles O21: a constant, STATUS and H are functions of what the two states share. -/
theorem hiddenStateCannotBeRead : Obligations.HiddenStateCannotBeRead := by
  unfold Obligations.HiddenStateCannotBeRead
  intro s s' t t' idx hh hmode hphase herr hfill hkeyhash hjob hdraws he he'
  rcases exec_read_cases idx with ⟨v, hread⟩ | hread | ⟨word, hread⟩ <;>
    rw [hread] at he he' <;> cases he <;> cases he'
  · exact ⟨rfl, hdraws⟩
  · have hstatus : status s.core = status s'.core := by
      simp [status, CoreState.busy, CoreState.done, hmode, hphase, herr, hfill, hkeyhash, hjob]
    exact ⟨hstatus, hdraws⟩
  · by_cases hj : s.core.job = .none
    · rw [s.readHash_idle word hj, s'.readHash_idle word (hjob.mp hj)]
      exact ⟨congrArg word hh, hdraws⟩
    · rw [s.readHash_busy word hj, s'.readHash_busy word (mt hjob.mpr hj)]
      exact ⟨congrArg Config.draw hdraws, congrArg (· + 1) hdraws⟩

/-! ## Reset (R59, R238) -/

theorem status_reset : status CoreState.reset = 0x00000000 := by decide

/-- Settles O14: what R59 lists is a property of the core alone, and ABORT gives the core of reset. -/
theorem resetValues : Obligations.ResetValues := by
  unfold Obligations.ResetValues
  intro AtReset
  have hcore : ∀ s : State, s.core = CoreState.reset → AtReset s := by
    rintro ⟨_, rdata, draws, events⟩ rfl
    refine ⟨rfl, rfl, rfl, rfl, rfl, rfl, rfl, rfl, rfl, fun i hi => Vector.getElem_replicate hi, ?_, rfl⟩
    exact congrArg (fun v => Host.Outcome.next (State.mk CoreState.reset v draws events)) status_reset
  exact ⟨hcore _ rfl, fun s => ⟨s.mapCore fun _ => CoreState.reset, rfl, hcore _ rfl⟩⟩

end Sys2Proof.Machine
end

section
/-! PROOFS. spec/20_memory.md: steps and transactions, byte order, and the write with key byte 65. -/

namespace Sys2Proof.Machine

/-! ## Steps of a run (R76, R81, R290) -/

theorem step_idle {s : State} (h : s.events = []) : step s = .next (engineStep s) := by
  simp [step, fetch, h]

theorem step_host {s : State} {txn : Txn} {rest : List Event} (h : s.events = .host txn :: rest) :
    step s = exec (decode txn) { s with events := rest } := by
  simp [step, fetch, h]

theorem step_engine {s : State} {rest : List Event} (h : s.events = .engine :: rest) :
    step s = .next (engineStep { s with events := rest }) := by
  simp [step, fetch, h]

theorem step_reset {s : State} {rest : List Event} (h : s.events = .reset :: rest) :
    step s = .next (resetStep { s with events := rest }) := by
  simp [step, fetch, h]

/-- Settles O6: the HOST's case of the step. -/
theorem stepRunsTheDecodedInstruction : Obligations.StepRunsTheDecodedInstruction := by
  unfold Obligations.StepRunsTheDecodedInstruction
  intro s txn rest h
  exact step_host h

/-- Settles O7: the three other cases of the step, whose updates of the state are of the core alone. -/
theorem engineAndResetSteps : Obligations.EngineAndResetSteps := by
  unfold Obligations.EngineAndResetSteps
  intro s rest
  exact ⟨step_engine, step_reset, step_idle, s.core.complete_idle⟩

/-- R76: every arm of the dispatch answers a next state. -/
theorem exec_next (i : Instr) (s : State) : ∃ t, exec i s = .next t := by
  cases i <;> exact ⟨_, rfl⟩

/-- Settles O8: a transaction answers a next state as every instruction does, and the other steps are total. -/
theorem everyTransactionCompletes : Obligations.EveryTransactionCompletes := by
  unfold Obligations.EveryTransactionCompletes
  refine ⟨exec_next, fun s => ?_⟩
  match h : s.events with
  | [] => exact ⟨_, step_idle h⟩
  | .host txn :: rest =>
    rw [step_host h]
    exact exec_next (decode txn) _
  | .engine :: rest => exact ⟨_, step_engine h⟩
  | .reset :: rest => exact ⟨_, step_reset h⟩

/-- Settles O20: a read returns a constant, STATUS or a word of H, and none changes the core or the schedule. -/
theorem readsHaveNoSideEffect : Obligations.ReadsHaveNoSideEffect := by
  unfold Obligations.ReadsHaveNoSideEffect
  intro idx s
  rcases exec_read_cases idx with ⟨v, hread⟩ | hread | ⟨word, hread⟩
  · exact ⟨_, hread s, s.withRdata_core v, s.withRdata_events v⟩
  · exact ⟨_, hread s, s.withRdata_core _, s.withRdata_events _⟩
  · exact ⟨_, hread s, s.readHash_core word, s.readHash_events word⟩

/-! ## Byte order (R23, R70 to R73) -/

theorem toNat_append_eq_add {m n : Nat} (x : BitVec m) (y : BitVec n) :
    (x ++ y).toNat = x.toNat * 2 ^ n + y.toNat := by
  rw [BitVec.toNat_append, ← Nat.shiftLeft_add_eq_or_of_lt y.isLt, Nat.shiftLeft_eq]

theorem packWord_toNat (b0 b1 b2 b3 : Byte) :
    (packWord b0 b1 b2 b3).toNat =
      b0.toNat * 2 ^ 24 + b1.toNat * 2 ^ 16 + b2.toNat * 2 ^ 8 + b3.toNat := by
  simp only [packWord, toNat_append_eq_add]
  omega

/-- R23, R71: packing four bytes undoes the big-endian cut of a word. -/
theorem packWord_extract (w : Word) :
    packWord (w.extractLsb' 24 8) (w.extractLsb' 16 8) (w.extractLsb' 8 8) (w.extractLsb' 0 8) = w := by
  have hw := w.isLt
  apply BitVec.eq_of_toNat_eq
  simp only [packWord_toNat, BitVec.extractLsb'_toNat, Nat.shiftRight_eq_div_pow]
  omega

theorem words_getElem (s : List Byte) {j : Nat} (hj : j < 16) :
    (words s)[j] =
      packWord (s.getD (4 * j) 0) (s.getD (4 * j + 1) 0) (s.getD (4 * j + 2) 0) (s.getD (4 * j + 3) 0) := by
  simp [words]

/-- Settles O42: each word packs its four bytes, the first one the most significant. -/
theorem blockWordsAreBigEndian : Obligations.BlockWordsAreBigEndian := by
  unfold Obligations.BlockWordsAreBigEndian
  intro s hs j hj
  have hbyte : ∀ n (hn : n < s.length), s.getD n 0 = s[n] := fun n hn => List.getD_eq_getElem s 0 hn
  rw [words_getElem s hj, packWord_toNat, hbyte, hbyte, hbyte, hbyte]

theorem be32_getElem? (w : Word) {k : Nat} (hk : k < 4) : (be32 w)[k]? = some (w.extractLsb' (24 - 8 * k) 8) := by
  unfold be32
  interval_cases k <;> rfl

/-- R70, R73: where byte k of word i lies when the bytes of words are put one after another. -/
theorem flatMap_be32_getElem? {ws : List Word} :
    ∀ {i k : Nat}, i < ws.length → k < 4 →
      (ws.flatMap be32)[4 * i + k]? = some ((ws.getD i 0).extractLsb' (24 - 8 * k) 8) := by
  induction ws with
  | nil => intro i k hi _; exact absurd hi (Nat.not_lt_zero i)
  | cons w ws ih =>
    intro i k hi hk
    have hlen : (be32 w).length = 4 := rfl
    rw [List.flatMap_cons]
    cases i with
    | zero =>
      rw [List.getElem?_append_left (by omega)]
      simpa using be32_getElem? w hk
    | succ i =>
      rw [List.getElem?_append_right (by omega), hlen, show 4 * (i + 1) + k - 4 = 4 * i + k by omega]
      exact ih (Nat.lt_of_succ_lt_succ hi) hk

/-- R102: a DIN_WORD write streams the big-endian bytes of its word. -/
theorem dinWordBytes_eq_be32 : dinWordBytes = be32 := rfl

/-- Settles O43: word j packs bytes 4j to 4j + 3 of the stream, which are the bytes of word j of the block. -/
theorem wholeWordsAreBlockWords : Obligations.WholeWordsAreBlockWords := by
  unfold Obligations.WholeWordsAreBlockWords
  intro blk
  ext1 j hj
  have hbyte : ∀ k < 4, (blk.toList.flatMap be32).getD (4 * j + k) 0 = blk[j].extractLsb' (24 - 8 * k) 8 := by
    intro k hk
    have hword : blk.toList.getD j 0 = blk[j] := by simp [hj]
    rw [List.getD_eq_getElem?_getD, flatMap_be32_getElem? (by simpa using hj) hk, hword, Option.getD_some]
  have hbyte0 : (blk.toList.flatMap be32).getD (4 * j) 0 = blk[j].extractLsb' 24 8 := hbyte 0 (by decide)
  rw [dinWordBytes_eq_be32, words_getElem _ hj, hbyte0, hbyte 1 (by decide), hbyte 2 (by decide), hbyte 3 (by decide)]
  exact packWord_extract blk[j]

theorem ser_eq_flatMap (h : Hash) : ser h = [h.h0, h.h1, h.h2, h.h3, h.h4].flatMap be32 := rfl

/-- Settles O44: the digest is the big-endian bytes of the five words of H, one word after another. -/
theorem digestSerialization : Obligations.DigestSerialization := by
  unfold Obligations.DigestSerialization
  intro h
  refine ⟨rfl, fun i k hi hk => ?_⟩
  rw [ser_eq_flatMap]
  exact flatMap_be32_getElem? hi hk

/-! ## The bytes of one write (R78, R174, R175, R201, R202) -/

theorem toList_set_take_succ {α : Type} {n i : Nat} (v : Vector α n) (hi : i < n) (b : α) :
    (v.set i b).toList.take (i + 1) = v.toList.take i ++ [b] := by
  rw [Vector.toList_set, List.take_succ_eq_append_getElem (by simpa using hi), List.take_set_of_le (Nat.le_refl i),
    List.getElem_set_self]

/-- R201: bytes that fit in K go to its next places, and only `keylen` changes with them. -/
theorem CoreState.pushBytes_keyForm {bs : List Byte} :
    ∀ {c : CoreState}, c.streamsToKey → c.keylen.val + bs.length ≤ 64 →
      ∃ (key' : Vector Byte 64) (n' : Fin 65),
        c.pushBytes bs = { c with key := key', keylen := n' } ∧ n'.val = c.keylen.val + bs.length ∧
        key'.toList.take n'.val = c.keyBytes ++ bs ∧
        ∀ k (hk : k < 64), k < c.keylen.val ∨ c.keylen.val + bs.length ≤ k → key'[k] = c.key[k] := by
  induction bs with
  | nil => intro c _ _; exact ⟨c.key, c.keylen, rfl, rfl, (List.append_nil _).symm, fun _ _ _ => rfl⟩
  | cons b bs ih =>
    intro c hs hfit
    rw [List.length_cons] at hfit
    have hk : c.keylen.val < 64 := by omega
    have hpush : c.pushByte b =
        { c with key := c.key.set c.keylen.val b, keylen := ⟨c.keylen.val + 1, by omega⟩ } := by
      rw [c.pushByte_key b hs.1 hs.2]
      exact dif_pos hk
    obtain ⟨key', n', hform, hn', hbytes, hkeep⟩ := ih (c := c.pushByte b)
      (by rwa [hpush]) (by rw [hpush]; dsimp; omega)
    simp only [hpush] at hform hn' hbytes hkeep
    refine ⟨key', n', by rw [pushBytes_cons, hpush, hform], ?_, ?_, ?_⟩
    · rw [hn', List.length_cons]
      omega
    · rw [hbytes, CoreState.keyBytes, toList_set_take_succ, CoreState.keyBytes, List.append_assoc,
        List.singleton_append]
    · intro k hk64 hout
      rw [List.length_cons] at hout
      rw [hkeep k hk64 (by omega), Vector.getElem_set_ne _ _ (by omega)]

/-- R175: bytes that do not fill the block buffer go to its next places, and only `fill` and `msglen` change too. -/
theorem CoreState.pushBytes_bufferForm {bs : List Byte} :
    ∀ {c : CoreState}, ¬c.streamsToKey → c.fill.val + bs.length < 64 →
      ∃ (buf' : Vector Byte 64) (f' : Fin 64),
        c.pushBytes bs = { c with blockbuf := buf', fill := f', msglen := c.msglen + bs.length } ∧
        f'.val = c.fill.val + bs.length ∧ buf'.toList.take f'.val = c.tail ++ bs ∧
        ∀ k (hk : k < 64), k < c.fill.val ∨ c.fill.val + bs.length ≤ k → buf'[k] = c.blockbuf[k] := by
  induction bs with
  | nil => intro c _ _; exact ⟨c.blockbuf, c.fill, rfl, rfl, (List.append_nil _).symm, fun _ _ _ => rfl⟩
  | cons b bs ih =>
    intro c hs hfit
    rw [List.length_cons] at hfit
    have hf : c.fill.val + 1 < 64 := by omega
    have hpush : c.pushByte b =
        { c with blockbuf := c.blockbuf.set c.fill.val b, fill := ⟨c.fill.val + 1, hf⟩, msglen := c.msglen + 1 } := by
      rw [c.pushByte_msg b hs]
      exact dif_pos hf
    obtain ⟨buf', f', hform, hf', hbytes, hkeep⟩ := ih (c := c.pushByte b)
      (by rwa [hpush]) (by rw [hpush]; dsimp; omega)
    simp only [hpush] at hform hf' hbytes hkeep
    refine ⟨buf', f', ?_, ?_, ?_, ?_⟩
    · rw [pushBytes_cons, hpush, hform, List.length_cons, Nat.add_right_comm, Nat.add_assoc]
    · rw [hf', List.length_cons]
      omega
    · rw [hbytes, CoreState.tail, toList_set_take_succ, CoreState.tail, List.append_assoc, List.singleton_append]
    · intro k hk64 hout
      rw [List.length_cons] at hout
      rw [hkeep k hk64 (by omega), Vector.getElem_set_ne _ _ (by omega)]

/-- R202: the key byte after the 64 of a full K starts the hash of the key. -/
theorem CoreState.pushByte_keyFull {c : CoreState} (hs : c.streamsToKey) (hk : c.keylen.val = 64) (b : Byte) :
    c.pushByte b =
      { c with
        keyhash := true, h := iv, blockbuf := c.blockbuf.set 0 b, fill := 1, msglen := 65
        job := .block (words c.key.toList) } := by
  rw [c.pushByte_key b hs.1 hs.2]
  exact dif_neg (by omega)

theorem CoreState.pushBytes_append (c : CoreState) (as bs : List Byte) :
    c.pushBytes (as ++ bs) = (c.pushBytes as).pushBytes bs := List.foldl_append

theorem CoreState.keyBytes_length (c : CoreState) : c.keyBytes.length = c.keylen.val := by
  have hkeylen := c.keylen.isLt
  simp only [CoreState.keyBytes, List.length_take, Vector.length_toList]
  omega

/-- R201, R202: key bytes up to number 64 fill K, number 65 starts the hash of K, the later ones are buffered. -/
theorem CoreState.pushBytes_keyHashForm {c : CoreState} {as : List Byte} {b : Byte} {cs : List Byte}
    (hs : c.streamsToKey) (hfull : c.keylen.val + as.length = 64) (hroom : cs.length < 63) :
    ∃ (key' buf' : Vector Byte 64) (f' : Fin 64),
      c.pushBytes (as ++ b :: cs) =
        { c with
          key := key', keylen := 64, keyhash := true, h := iv, job := .block (words (c.keyBytes ++ as))
          blockbuf := buf', fill := f', msglen := 65 + cs.length } ∧
      key'.toList = c.keyBytes ++ as ∧ f'.val = 1 + cs.length ∧ buf'.toList.take f'.val = b :: cs ∧
      ∀ k (hk : k < 64), f'.val ≤ k → buf'[k] = c.blockbuf[k] := by
  obtain ⟨key', n', hkey, hn', hbytes, -⟩ := pushBytes_keyForm (bs := as) hs hfull.le
  obtain rfl : n' = 64 := Fin.ext (hn'.trans hfull)
  have hfilled : key'.toList = c.keyBytes ++ as := by
    rw [← hbytes]
    exact (List.take_of_length_le (by simp)).symm
  have hstart := pushByte_keyFull (c := { c with key := key', keylen := 64 }) hs rfl b
  rw [hfilled] at hstart
  obtain ⟨buf', f', hbuf, hf', htail, hkeep⟩ := pushBytes_bufferForm (bs := cs)
    (c := CoreState.pushByte { c with key := key', keylen := 64 } b)
    (by simp [hstart, CoreState.streamsToKey]) (by rw [hstart]; dsimp; omega)
  simp only [hstart] at hbuf hf' htail hkeep
  refine ⟨key', buf', f', ?_, hfilled, hf', ?_, ?_⟩
  · rw [pushBytes_append, hkey, pushBytes_cons, hstart, hbuf]
  · rw [htail]
    exact congrArg (· ++ cs) (toList_set_take_succ c.blockbuf (by decide) b)
  · intro k hk hle
    have hpos : 1 + cs.length ≤ k := hf' ▸ hle
    rw [hkeep k hk (.inr hpos)]
    exact Vector.getElem_set_ne (by decide) hk (by omega)

/-- R261: with no job and no error, key bytes are accepted: the stream they make is far from its bound. -/
theorem dinCheck_accept_of_streamsToKey {c : CoreState} {n : Nat} (hj : c.job = .none) (herr : c.err = .none)
    (hs : c.streamsToKey) (hn : n ≤ 4) : dinCheck c n = .accept := by
  have hkeylen := c.keylen.isLt
  have hmax : 68 ≤ Config.maxLen := by decide
  refine (dinCheck_accept_iff c n).mpr ⟨hj, herr, .inl hs.1, ?_⟩
  rw [CoreState.streamlen_of_streamsToKey hs]
  omega

/-- Settles O40: the bytes of the write are cut at key byte 65: K takes those before it, the block buffer the rest. -/
theorem sixtyFifthKeyByteStartsTheKeyHash : Obligations.SixtyFifthKeyByteStartsTheKeyHash := by
  unfold Obligations.SixtyFifthKeyByteStartsTheKeyHash
  intro i bs s hd hj herr hs hover
  have hlen := isDataWrite_length_le hd
  have hkeylen := s.core.keylen.isLt
  obtain ⟨as, b, cs, rfl, hfull⟩ : ∃ as b cs, bs = as ++ b :: cs ∧ s.core.keylen.val + as.length = 64 := by
    obtain ⟨n, hn⟩ : ∃ n, s.core.keylen.val + n = 64 := ⟨64 - s.core.keylen.val, by omega⟩
    have hcut : n < bs.length := by omega
    refine ⟨bs.take n, bs[n], bs.drop (n + 1), ?_, ?_⟩
    · rw [← List.drop_eq_getElem_cons hcut, List.take_append_drop]
    · rw [List.length_take_of_le hcut.le, hn]
  have hwrite : exec i s = .next (s.mapCore fun c => c.pushBytes (as ++ b :: cs)) := by
    rw [exec_dataWrite hd, State.mapCore, State.mapCore,
      CoreState.dinWrite_of_accept (dinCheck_accept_of_streamsToKey hj herr hs hlen)]
  rw [List.length_append, List.length_cons] at hlen hover ⊢
  obtain ⟨key', buf', f', hpush, hkey, hf', htail, hkeep⟩ :=
    CoreState.pushBytes_keyHashForm (b := b) (cs := cs) hs hfull (by omega)
  have h64 : (s.core.keyBytes ++ as).length = 64 := by rw [List.length_append, s.core.keyBytes_length, hfull]
  have hmsglen : s.core.keylen.val + (as.length + (cs.length + 1)) = 65 + cs.length := by omega
  rw [State.mapCore, hpush] at hwrite
  rw [← List.append_assoc, List.take_left' h64, List.drop_left' h64, hmsglen]
  exact ⟨_, hwrite, hkey, htail, by dsimp; omega, hkeep, rfl⟩

end Sys2Proof.Machine
end

section
/-! PROOFS. spec/30_encoding.md: the command words, the two round trips, the BUS rows, and the host script. -/

namespace Sys2Proof

open Machine

/-! ## Command words (R101, R106, R107) -/

/-- R106: a word is a command exactly if it is the whole word of that command. -/
theorem decodeCmd_eq_some_iff (w : Word) (c : Command) : decodeCmd w = some c ↔ w = c.word := by
  constructor
  · intro h
    have hword := List.find?_some h
    exact (eq_of_beq hword).symm
  · rintro rfl
    cases c <;> rfl

@[simp] theorem decodeCmd_word (c : Command) : decodeCmd c.word = some c := (decodeCmd_eq_some_iff _ c).mpr rfl

theorem decodeCmd_isSome_iff (w : Word) : (decodeCmd w).isSome = true ↔ ∃ c : Command, w = c.word := by
  simp only [Option.isSome_iff_exists, decodeCmd_eq_some_iff]

/-- R101: a command word is its two fields. -/
theorem cmdRsvd_append_cmdOpcode (w : Word) : cmdRsvd w ++ cmdOpcode w = w :=
  (BitVec.extractLsb'_append_extractLsb'_eq_extractLsb' rfl).trans BitVec.extractLsb'_eq_self

/-- R106: OPCODE and RSVD of the six words; the OPCODE list is in the order of R106's table. -/
theorem exists_eq_word_iff (w : Word) :
    (∃ c : Command, w = c.word) ↔
      cmdRsvd w = 0 ∧ cmdOpcode w ∈ ([0x01, 0x02, 0x03, 0x04, 0x05, 0x0F] : List Byte) := by
  constructor
  · rintro ⟨c, rfl⟩
    cases c <;> decide
  · rintro ⟨hrsvd, hop⟩
    have hopcodes : ([0x01, 0x02, 0x03, 0x04, 0x05, 0x0F] : List Byte) =
        [Command.init, .final, .hmacInit, .hmacKeyEnd, .hmacFinal, .abort].map fun c => cmdOpcode c.word := rfl
    obtain ⟨c, -, hc⟩ := List.mem_map.mp (hopcodes ▸ hop)
    have hzero : cmdRsvd c.word = 0 := by cases c <;> rfl
    exact ⟨c, by rw [← cmdRsvd_append_cmdOpcode w, ← cmdRsvd_append_cmdOpcode c.word, hrsvd, hzero, hc]⟩

/-- Settles O5: the words of the commands are told apart by all their bits, and are the ones with RSVD 0 and a listed
OPCODE. -/
theorem commandWordsAreMatchedWhole : Obligations.CommandWordsAreMatchedWhole := by
  unfold Obligations.CommandWordsAreMatchedWhole
  intro w
  exact ⟨(decodeCmd_isSome_iff w).trans (exists_eq_word_iff w), decodeCmd_eq_some_iff w .init,
    decodeCmd_eq_some_iff w .final, decodeCmd_eq_some_iff w .hmacInit, decodeCmd_eq_some_iff w .hmacKeyEnd,
    decodeCmd_eq_some_iff w .hmacFinal, decodeCmd_eq_some_iff w .abort⟩

theorem decodeCmdWrite_word (c : Command) : decodeCmdWrite c.word = c.instr := by
  simp [decodeCmdWrite]

theorem decodeCmdWrite_reserved {w : Word} (h : decodeCmd w = none) : decodeCmdWrite w = .wrCmd w := by
  simp [decodeCmdWrite, h]

/-! ## Reserved slots (R105, R108) -/

theorem decodeRead_rsvdA (lo : BitVec 1) : decodeRead (0b101#3 ++ lo) = .rdRsvdA lo := by
  revert lo
  decide

theorem decodeRead_rsvdB (lo : BitVec 2) : decodeRead (0b11#2 ++ lo) = .rdRsvdB lo := by
  revert lo
  decide

theorem decodeWrite_rsvdA (lo : BitVec 1) (w : Word) : decodeWrite (0b101#3 ++ lo) w = .wrRsvdA lo w := by
  obtain rfl | rfl := BitVec.eq_zero_or_eq_one lo <;> rfl

theorem decodeWrite_rsvdB (lo : BitVec 2) (w : Word) : decodeWrite (0b11#2 ++ lo) w = .wrRsvdB lo w := by
  obtain rfl | rfl | rfl | rfl : lo = 0 ∨ lo = 1 ∨ lo = 2 ∨ lo = 3 := by
    revert lo
    decide
  all_goals rfl

/-! ## The round trips (R100, R105, R106) -/

/-- Outside the CMD slot and the reserved ones the slot number alone names the instruction. -/
theorem decode_encode {i : Instr} (h : i.wf = true) : decode (encode i) = i := by
  cases i with
  | rdRsvdA lo => exact decodeRead_rsvdA lo
  | rdRsvdB lo => exact decodeRead_rsvdB lo
  | wrRsvdA lo w => exact decodeWrite_rsvdA lo w
  | wrRsvdB lo w => exact decodeWrite_rsvdB lo w
  | wrCmd w => exact decodeCmdWrite_reserved (Option.isNone_iff_eq_none.mp h)
  | init => exact decodeCmdWrite_word .init
  | final => exact decodeCmdWrite_word .final
  | hmacInit => exact decodeCmdWrite_word .hmacInit
  | hmacKeyEnd => exact decodeCmdWrite_word .hmacKeyEnd
  | hmacFinal => exact decodeCmdWrite_word .hmacFinal
  | abort => exact decodeCmdWrite_word .abort
  | _ => rfl

/-- Settles O1: the slot, and in the CMD slot the word, give the instruction back. -/
theorem decodeEncodeRoundTrip : Obligations.DecodeEncodeRoundTrip := by
  unfold Obligations.DecodeEncodeRoundTrip
  exact fun _ h => decode_encode h

/-- R105: the slots, those of the two reserved rows by the bits that their masks leave free. -/
theorem slot_cases (idx : BitVec 4) :
    idx = 0 ∨ idx = 1 ∨ idx = 2 ∨ idx = 3 ∨ idx = 4 ∨ idx = 5 ∨ idx = 6 ∨ idx = 7 ∨ idx = 8 ∨ idx = 9 ∨
      (∃ lo : BitVec 1, idx = 0b101#3 ++ lo) ∨ ∃ lo : BitVec 2, idx = 0b11#2 ++ lo := by
  revert idx
  decide

theorem Command.wf_instr (c : Command) : c.instr.wf = true := by cases c <;> rfl

theorem Command.encode_instr (c : Command) : encode c.instr = .write 0x1 c.word := by cases c <;> rfl

/-- R106, R107: a write to CMD is the transaction of the command its word is, or of WR_CMD if the word is reserved. -/
theorem exists_encode_eq_write_cmd (w : Word) : ∃ i : Instr, i.wf = true ∧ encode i = .write 0x1 w := by
  cases h : decodeCmd w with
  | none => exact ⟨.wrCmd w, Option.isNone_iff_eq_none.mpr h, rfl⟩
  | some c =>
    obtain rfl := (decodeCmd_eq_some_iff w c).mp h
    exact ⟨c.instr, c.wf_instr, c.encode_instr⟩

/-- R100: no transaction is without its instruction. -/
theorem exists_encode_eq (txn : Txn) : ∃ i : Instr, i.wf = true ∧ encode i = txn := by
  cases txn with
  | read idx =>
    rcases slot_cases idx with rfl | rfl | rfl | rfl | rfl | rfl | rfl | rfl | rfl | rfl | ⟨lo, rfl⟩ | ⟨lo, rfl⟩
    · exact ⟨.rdId, rfl, rfl⟩
    · exact ⟨.rdCmd, rfl, rfl⟩
    · exact ⟨.rdStatus, rfl, rfl⟩
    · exact ⟨.rdDinWord, rfl, rfl⟩
    · exact ⟨.rdDinByte, rfl, rfl⟩
    · exact ⟨.rdH0, rfl, rfl⟩
    · exact ⟨.rdH1, rfl, rfl⟩
    · exact ⟨.rdH2, rfl, rfl⟩
    · exact ⟨.rdH3, rfl, rfl⟩
    · exact ⟨.rdH4, rfl, rfl⟩
    · exact ⟨.rdRsvdA lo, rfl, rfl⟩
    · exact ⟨.rdRsvdB lo, rfl, rfl⟩
  | write idx w =>
    rcases slot_cases idx with rfl | rfl | rfl | rfl | rfl | rfl | rfl | rfl | rfl | rfl | ⟨lo, rfl⟩ | ⟨lo, rfl⟩
    · exact ⟨.wrId w, rfl, rfl⟩
    · exact exists_encode_eq_write_cmd w
    · exact ⟨.wrStatus w, rfl, rfl⟩
    · exact ⟨.wrDinWord w, rfl, rfl⟩
    · exact ⟨.wrDinByte w, rfl, rfl⟩
    · exact ⟨.wrH0 w, rfl, rfl⟩
    · exact ⟨.wrH1 w, rfl, rfl⟩
    · exact ⟨.wrH2 w, rfl, rfl⟩
    · exact ⟨.wrH3 w, rfl, rfl⟩
    · exact ⟨.wrH4 w, rfl, rfl⟩
    · exact ⟨.wrRsvdA lo w, rfl, rfl⟩
    · exact ⟨.wrRsvdB lo w, rfl, rfl⟩

/-- Settles O2: every transaction is that of a well-formed instruction, and decoding it gives that one back. -/
theorem encodeDecodeRoundTrip : Obligations.EncodeDecodeRoundTrip := by
  unfold Obligations.EncodeDecodeRoundTrip
  intro txn
  obtain ⟨i, hwf, rfl⟩ := exists_encode_eq txn
  rw [decode_encode hwf]
  exact ⟨hwf, rfl⟩

/-! ## The BUS rows (R100, R105) -/

theorem Txn.code_read_toNat (idx : BitVec 4) : (Txn.read idx).code.toNat = idx.toNat := by
  rw [Txn.code, toNat_append_eq_add, BitVec.toNat_zero, Nat.zero_mul, Nat.zero_add]

theorem Txn.code_write_toNat (idx : BitVec 4) (w : Word) : (Txn.write idx w).code.toNat = 16 + idx.toNat := by
  rw [Txn.code, toNat_append_eq_add]
  rfl

theorem length_filter_covers (t : BitVec 5) : (busRows.filter (·.covers t)).length = 1 := by
  revert t
  decide

theorem existsUnique_covers (t : BitVec 5) : ∃! r, r ∈ busRows ∧ r.covers t = true := by
  obtain ⟨r, hr⟩ := List.length_eq_one_iff.mp (length_filter_covers t)
  have hmem (r' : BusRow) : r' ∈ busRows ∧ r'.covers t = true ↔ r' = r := by
    rw [← List.mem_singleton (a := r'), ← hr, List.mem_filter]
  exact ⟨r, (hmem r).mpr rfl, fun r' hr' => (hmem r').mp hr'⟩

open Laws.RowMatch in
/-- R105: every instruction's transaction lies in the row of its mnemonic. -/
theorem rowMatch (i : Instr) : Statement i := by
  cases i
  exacts [rdId, rdCmd, rdStatus, rdDinWord, rdDinByte, rdH0, rdH1, rdH2, rdH3, rdH4, rdRsvdA _, rdRsvdB _,
    wrId _, wrCmd _, wrStatus _, wrDinWord _, wrDinByte _, wrH0 _, wrH1 _, wrH2 _, wrH3 _, wrH4 _,
    wrRsvdA _ _, wrRsvdB _ _, init, final, hmacInit, hmacKeyEnd, hmacFinal, abort]

/-- Settles O3: the row of the decoded instruction covers its transaction's selector, and no other row does. -/
theorem everySelectorInExactlyOneRow : Obligations.EverySelectorInExactlyOneRow := by
  unfold Obligations.EverySelectorInExactlyOneRow
  refine ⟨fun idx w => ⟨Txn.code_read_toNat idx, Txn.code_write_toNat idx w⟩, existsUnique_covers, ?_⟩
  intro txn r hr hcovers
  obtain ⟨r', hr', hname, hcovers'⟩ := rowMatch (decode txn)
  rw [(encodeDecodeRoundTrip txn).2] at hcovers'
  have hsame : r = r' := (existsUnique_covers txn.code).unique ⟨hr, hcovers⟩ ⟨hr', hcovers'⟩
  rw [hsame, hname]

/-- Settles O4: the words are closed, so the decoder evaluates them. -/
theorem tableWordsDecode : Obligations.TableWordsDecode := by
  unfold Obligations.TableWordsDecode
  decide

/-! ## Data bytes and host scripts (R103, R111, R112, R177) -/

/-- Settles O41: WR_DIN_BYTE pushes the one byte in bits 7:0. -/
theorem dinByteIgnoresUpperBits : Obligations.DinByteIgnoresUpperBits := by
  unfold Obligations.DinByteIgnoresUpperBits
  intro w w' s h
  have hbyte : dinByteBytes w = dinByteBytes w' := congrArg (fun b => [b]) h
  rw [exec_wrDinByte, exec_wrDinByte, hbyte]

/-- Settles O60: each pseudo-operation writes or reads a fixed slot; a command's word is decoded to the command. -/
theorem hostScriptExpansions : Obligations.HostScriptExpansions := by
  unfold Obligations.HostScriptExpansions
  refine ⟨fun _ => rfl, fun _ => rfl, fun c => ?_, fun n => ?_, rfl⟩
  · exact congrArg (fun i => [i]) (decodeCmdWrite_word c)
  · exact List.map_replicate

end Sys2Proof
end

section
/-! PROOFS. spec/41_compression_engine.md: the message schedule, the window, the round, the micro-sequence, and BLOCK
completion. -/

namespace Sys2Proof.Machine

/-! ## Block expander (R131, R132) -/

theorem vector_getD_of_lt {α : Type} {n i : Nat} (v : Vector α n) (hi : i < n) (d : α) : v.getD i d = v[i] := by
  simp [Vector.getD, hi]

theorem copyBlock_getElem (blk : Block) {t : Nat} (ht : t < 16) : (copyBlock blk)[t] = blk[t] :=
  Vector.getElem_append_left ht

theorem expandStep_getElem_ne (w : Vector Word 80) {j t : Nat} (hj : j < 80) (h : t ≠ j) : (expandStep w t)[j] = w[j] :=
  Vector.getElem_setIfInBounds_ne hj h

theorem expandStep_getElem_self (w : Vector Word 80) {t : Nat} (ht : t < 80) :
    (expandStep w t)[t] = scheduleWord w[t - 3] w[t - 8] w[t - 14] w[t - 16] := by
  rw [expandStep, Vector.getElem_setIfInBounds_self ht, vector_getD_of_lt w, vector_getD_of_lt w, vector_getD_of_lt w,
    vector_getD_of_lt w]

/-- The expander's array when it has written its first `n` words, `W[16]` to `W[15 + n]`. -/
def expandAfter (blk : Block) (n : Nat) : Vector Word 80 := (List.range' 16 n).foldl expandStep (copyBlock blk)

theorem expandAfter_succ (blk : Block) (n : Nat) :
    expandAfter blk (n + 1) = expandStep (expandAfter blk n) (16 + n) := by
  simp [expandAfter, List.range'_1_concat]

theorem expand_eq_expandAfter (blk : Block) : expand blk = expandAfter blk 64 := by
  rw [expand, Vector.length_toList, expandAfter]

/-- A word that is written is never written again. -/
theorem expandAfter_getElem_of_le (blk : Block) {n m j : Nat} (hnm : n ≤ m) (hj : j < 80) (hjn : j < 16 + n) :
    (expandAfter blk m)[j] = (expandAfter blk n)[j] := by
  induction m, hnm using Nat.le_induction with
  | base => rfl
  | succ m hnm ih => simpa only [expandAfter_succ, expandStep_getElem_ne _ hj (show 16 + m ≠ j by omega)] using ih

theorem expand_getElem (blk : Block) {n j : Nat} (hn : n ≤ 64) (hj : j < 80) (hjn : j < 16 + n) :
    (expand blk)[j] = (expandAfter blk n)[j] := by
  simpa only [expand_eq_expandAfter] using expandAfter_getElem_of_le blk hn hj hjn

/-- R131 -/
theorem expand_getElem_block (blk : Block) {t : Nat} (ht : t < 16) : (expand blk)[t] = blk[t] := by
  rw [expand_getElem blk (Nat.zero_le 64) _ ht]
  exact copyBlock_getElem blk ht

/-- R132: when `W[t]` is written, the four words it is made of have their last values. -/
theorem expand_getElem_recurrence (blk : Block) {t : Nat} (h16 : 16 ≤ t) (ht : t < 80) :
    (expand blk)[t] =
      scheduleWord (expand blk)[t - 3] (expand blk)[t - 8] (expand blk)[t - 14] (expand blk)[t - 16] := by
  obtain ⟨n, rfl⟩ := Nat.exists_eq_add_of_le h16
  have hlast : (expand blk)[16 + n] = (expandStep (expandAfter blk n) (16 + n))[16 + n] := by
    simpa only [expandAfter_succ] using expand_getElem blk (n := n + 1) (by omega) ht (by omega)
  have hbefore : ∀ j (hj : j < 16 + n), (expand blk)[j] = (expandAfter blk n)[j] := fun j hj =>
    expand_getElem blk (by omega) (by omega) hj
  rw [hlast, expandStep_getElem_self _ ht, hbefore _ (by omega), hbefore _ (by omega), hbefore _ (by omega),
    hbefore _ (by omega)]

/-- Settles O46: the block's own words are never overwritten, and each later word is made of words already final. -/
theorem scheduleRecurrence : Obligations.ScheduleRecurrence := by
  unfold Obligations.ScheduleRecurrence
  exact fun blk => ⟨fun t ht => expand_getElem_block blk ht, fun t h16 ht => expand_getElem_recurrence blk h16 ht⟩

/-! ## The 16-word window (R142) -/

theorem windowStep_getElem_ne (wc : Block) {j t : Nat} (hj : j < 16) (h : t % 16 ≠ j) : (windowStep wc t)[j] = wc[j] :=
  Vector.getElem_setIfInBounds_ne hj h

theorem windowStep_getElem_self (wc : Block) (t : Nat) :
    (windowStep wc t)[t % 16] =
      scheduleWord wc[(t - 3) % 16] wc[(t - 8) % 16] wc[(t - 14) % 16] wc[t % 16] := by
  rw [windowStep, Vector.getElem_setIfInBounds_self (by omega), vector_getD_of_lt wc, vector_getD_of_lt wc,
    vector_getD_of_lt wc, vector_getD_of_lt wc]

/-- The window when `n` words have been produced, `W[16]` to `W[15 + n]`. -/
def windowAfter (blk : Block) (n : Nat) : Block := (List.range' 16 n).foldl windowStep blk

theorem windowAfter_succ (blk : Block) (n : Nat) :
    windowAfter blk (n + 1) = windowStep (windowAfter blk n) (16 + n) := by
  simp [windowAfter, List.range'_1_concat]

theorem windowAt_eq_windowAfter (blk : Block) (t : Nat) : windowAt blk t = windowAfter blk (t - 15) := rfl

/-- R142: after `n` words the window holds the last 16 words of the schedule, `W[n]` to `W[n + 15]`, each in its slot. -/
theorem windowAfter_getElem (blk : Block) {n : Nat} (hn : n ≤ 64) :
    ∀ j (_ : n ≤ j) (_ : j < 16 + n), (windowAfter blk n)[j % 16] = (expand blk)[j] := by
  induction n with
  | zero =>
    intro j _ hj
    rw [expand_getElem_block blk hj]
    exact getElem_congr_idx (Nat.mod_eq_of_lt hj)
  | succ n ih =>
    intro j hnj hj
    replace ih := ih (by omega)
    rw [getElem_congr_coll (windowAfter_succ blk n)]
    by_cases hnew : j = 16 + n
    · subst hnew
      have hslot : (windowAfter blk n)[(16 + n) % 16] = (expand blk)[16 + n - 16] := by
        simpa using ih n (by omega) (by omega)
      rw [expand_getElem_recurrence blk (by omega) (by omega), windowStep_getElem_self,
        ih (16 + n - 3) (by omega) (by omega), ih (16 + n - 8) (by omega) (by omega),
        ih (16 + n - 14) (by omega) (by omega), hslot]
    · rw [windowStep_getElem_ne _ _ (by omega)]
      exact ih j (by omega) (by omega)

/-- Settles O47: `W[t]` is one of the 16 words that the window holds after the words up to `W[t]`. -/
theorem windowGivesTheSameSchedule : Obligations.WindowGivesTheSameSchedule := by
  unfold Obligations.WindowGivesTheSameSchedule
  intro blk t ht
  rw [windowWord, vector_getD_of_lt _ (Nat.mod_lt t (by decide)), getElem_congr_coll (windowAt_eq_windowAfter blk t)]
  exact windowAfter_getElem blk (by omega) t (by omega) (by omega)

/-! ## Round mixer (R133 to R138) -/

theorem choice_bit (b c d : Bool) : (b && c || !b && d) = if b then c else d := by cases b <;> simp

theorem majority_bit (b c d : Bool) :
    (b && c || b && d || c && d) = decide (2 ≤ b.toNat + c.toNat + d.toNat) := by
  cases b <;> cases c <;> cases d <;> rfl

/-- Settles O48: each function is bitwise, so at bit k it is the choice, parity and majority of three bits. -/
theorem mixingFunctionsBitwise : Obligations.MixingFunctionsBitwise := by
  unfold Obligations.MixingFunctionsBitwise
  intro b c d k hk
  refine ⟨?_, ?_, ?_⟩
  · simpa [fCh, hk] using choice_bit (b.getLsbD k) (c.getLsbD k) (d.getLsbD k)
  · simp [fParity]
  · simpa [fMaj] using majority_bit (b.getLsbD k) (c.getLsbD k) (d.getLsbD k)

theorem rotl_thirty_eq_rotateRight (x : Word) : rotl x 30 = x.rotateRight 2 := by
  rw [rotl, BitVec.rotateRight_def]
  exact BitVec.or_comm ..

/-- R133: the four stages, 20 rounds each. -/
theorem stage_cases {t : Nat} (ht : t < 80) :
    (t < 20 ∧ stage t = some 0) ∨ (20 ≤ t ∧ t < 40 ∧ stage t = some 1) ∨
      (40 ≤ t ∧ t < 60 ∧ stage t = some 2) ∨ (60 ≤ t ∧ stage t = some 3) := by
  have hstage : ∀ st : Fin 4, t / 20 = st.val → stage t = some st := fun st h => by
    rw [stage, dif_pos ht]
    exact congrArg some (Fin.ext h)
  have hblock : t < 20 ∨ (20 ≤ t ∧ t < 40) ∨ (40 ≤ t ∧ t < 60) ∨ 60 ≤ t := by omega
  rcases hblock with h | ⟨hlo, hhi⟩ | ⟨hlo, hhi⟩ | h
  · exact .inl ⟨h, hstage 0 (show t / 20 = 0 by omega)⟩
  · exact .inr (.inl ⟨hlo, hhi, hstage 1 (show t / 20 = 1 by omega)⟩)
  · exact .inr (.inr (.inl ⟨hlo, hhi, hstage 2 (show t / 20 = 2 by omega)⟩))
  · exact .inr (.inr (.inr ⟨h, hstage 3 (show t / 20 = 3 by omega)⟩))

theorem roundAt_of_stage {t : Nat} {st : Fin 4} (h : stage t = some st) (wt : Word) (r : Work) :
    roundAt t wt r = roundIn st wt r := by
  simp only [roundAt, h]

theorem roundAt_of_ge {t : Nat} (ht : ¬t < 80) (wt : Word) (r : Work) : roundAt t wt r = r := by
  simp [roundAt, stage, ht]

/-- Settles O49: below 80 the stage of t decides which branches of the formula hold; from 80 on there is no stage. -/
theorem roundFormula : Obligations.RoundFormula := by
  unfold Obligations.RoundFormula
  refine ⟨rotl_thirty_eq_rotateRight, fun t wt r => ?_⟩
  by_cases ht : t < 80
  · rw [if_pos ht]
    rcases stage_cases ht with ⟨h20, hst⟩ | ⟨h20, h40, hst⟩ | ⟨h40, h60, hst⟩ | ⟨h60, hst⟩ <;>
      rw [roundAt_of_stage hst]
    · simp only [if_pos h20]
      rfl
    · simp only [if_neg (Nat.not_lt.mpr h20), if_pos h40]
      rfl
    · simp only [if_neg (show ¬t < 20 by omega), if_neg (Nat.not_lt.mpr h40), if_pos h60]
      rfl
    · simp only [if_neg (show ¬t < 20 by omega), if_neg (show ¬t < 40 by omega), if_neg (Nat.not_lt.mpr h60)]
      rfl
  · rw [if_neg ht, roundAt_of_ge ht]

/-! ## The engine's micro-sequence (R34, R130, R139 to R141) -/

theorem Engine.tick_of_lt {g : Engine} (h : g.t.val < 80) :
    g.tick = { g with work := roundAt g.t.val (g.w.getD g.t.val 0) g.work, t := ⟨g.t.val + 1, by omega⟩ } :=
  dif_pos h

/-- R130: the working registers after the first `n` rounds. -/
def roundsUpTo (w : Vector Word 80) (r : Work) (n : Nat) : Work :=
  (List.range n).foldl (fun r t => roundAt t (w.getD t 0) r) r

theorem roundsUpTo_succ (w : Vector Word 80) (r : Work) (n : Nat) :
    roundsUpTo w r (n + 1) = roundAt n (w.getD n 0) (roundsUpTo w r n) := by
  simp [roundsUpTo, List.range_succ]

theorem rounds_eq_roundsUpTo (w : Vector Word 80) (r : Work) : rounds w r = roundsUpTo w r 80 := by
  rw [rounds, Vector.length_toList, roundsUpTo]

/-- R34: the engine's registers after `n` ticks from LOAD: `n` rounds done, W as loaded, and t = n. -/
theorem Engine.iterate_tick_load (h : Hash) (blk : Block) : ∀ (n : Nat) (hn : n ≤ 80),
    Engine.tick^[n] (Engine.load h blk) =
      { work := roundsUpTo (expand blk) (loadWork h) n, w := expand blk, t := ⟨n, by omega⟩ } := by
  intro n
  induction n with
  | zero => exact fun _ => rfl
  | succ n ih =>
    intro hn
    rw [Function.iterate_succ_apply', ih (by omega), Engine.tick_of_lt (show n < 80 by omega), roundsUpTo_succ]

theorem Engine.run_eq (h : Hash) (blk : Block) :
    Engine.run h blk = { work := roundsUpTo (expand blk) (loadWork h) 80, w := expand blk, t := 80 } := by
  rw [Engine.run, Vector.length_toList]
  exact Engine.iterate_tick_load h blk 80 (Nat.le_refl 80)

theorem compress_eq_updateHash (h : Hash) (blk : Block) : compress h blk = updateHash h (Engine.run h blk).work := by
  rw [compress, rounds_eq_roundsUpTo, Engine.run_eq]

/-- Settles O50: 80 ticks from LOAD are the 80 rounds of the compression function, and both end with UPDATE. -/
theorem microSequenceIsCompress : Obligations.MicroSequenceIsCompress := by
  unfold Obligations.MicroSequenceIsCompress
  refine ⟨fun g hg => ?_, fun h blk => ⟨?_, ?_, ?_, ?_⟩⟩
  · rw [Engine.tick_of_lt hg]
    exact ⟨rfl, rfl⟩
  · rw [Engine.run_eq]
  · rw [Engine.run_eq]
  · rw [Engine.run_eq, roundsUpTo, loadWork]
  · rw [compress_eq_updateHash, updateHash]

/-! ## BLOCK completion (R143, R144) -/

/-- R130, R141: one compression on the core's registers, by the compression function. -/
theorem CoreState.compressBlock_eq (c : CoreState) (blk : Block) :
    c.compressBlock blk = { c with h := compress c.h blk, eng := Engine.run c.h blk } := by
  rw [CoreState.compressBlock, compress_eq_updateHash]

/-- Settles O53: the completion is one compression of the latched block. -/
theorem blockCompletion : Obligations.BlockCompletion := by
  unfold Obligations.BlockCompletion
  intro s blk rest hjob hev
  have hcomplete : s.core.complete =
      { s.core with h := compress s.core.h blk, job := .none, eng := Engine.run s.core.h blk } := by
    rw [s.core.complete_block blk hjob, CoreState.completeBlock, CoreState.compressBlock_eq]
  refine ⟨_, step_engine hev, ?_⟩
  simp only [engineStep, State.mapCore, hcomplete]

end Sys2Proof.Machine
end

section
/-! PROOFS. spec/41_compression_engine.md section 5: a schedule runs out, and the step after it leaves no job. -/

namespace Sys2Proof.Machine

/-! ## Every job ends (R145, R302) -/

theorem exec_events {i : Instr} {s t : State} (h : exec i s = .next t) : t.events = s.events := by
  cases i <;> cases h
  case rdH0 | rdH1 | rdH2 | rdH3 | rdH4 => exact s.readHash_events _
  all_goals rfl

/-- R81: a step takes the next event off the schedule and places none. -/
theorem step_events {s t : State} (h : step s = .next t) : t.events = s.events.tail := by
  rcases step_cases h with ⟨hev, rfl⟩ | ⟨txn, rest, hev, he⟩ | ⟨rest, hev, rfl⟩ | ⟨rest, hev, rfl⟩ <;> rw [hev]
  · exact hev
  · exact exec_events he
  · rfl
  · rfl

/-- R76: no step stops. -/
theorem step_next (s : State) : ∃ t, step s = .next t := everyTransactionCompletes.2 s

theorem run_succ_of_step {n : Nat} {s t : State} (h : step s = .next t) :
    Host.Core.run Sys2Proof.core (n + 1) s = Host.Core.run Sys2Proof.core n t := by
  have hstep : Sys2Proof.core.step s = .next t := h
  simp only [Host.Core.run, hstep]

theorem run_schedule_and_one_ends_idle {evs : List Event} : ∀ {s : State}, s.events = evs → ∃ t,
    Host.Core.run Sys2Proof.core (evs.length + 1) s = .next t ∧ t.core.job = .none ∧ t.events = [] := by
  induction evs with
  | nil =>
    intro s hev
    exact ⟨engineStep s, run_succ_of_step (step_idle hev), s.core.complete_job, hev⟩
  | cons e rest ih =>
    intro s hev
    obtain ⟨t, ht⟩ := step_next s
    have hrest : t.events = rest := by rw [step_events ht, hev, List.tail_cons]
    rw [List.length_cons, run_succ_of_step ht]
    exact ih hrest

/-- Settles O9: each step takes one event off the schedule, and the step after the last one completes the job. -/
theorem everyJobEnds : Obligations.EveryJobEnds := by
  unfold Obligations.EveryJobEnds
  exact fun s => run_schedule_and_one_ends_idle rfl

end Sys2Proof.Machine
end

section
/-! PROOFS. spec/42_hash_stream.md section 1: the padded tail, its blocks, and Finish over a whole message. -/

namespace Sys2Proof.Machine

/-! ## The padded tail (R72, R170) -/

theorem be64_length (v : BitVec 64) : (be64 v).length = 8 := rfl

theorem ser_length (h : Hash) : (ser h).length = 20 := rfl

/-- R170: `(55 − n) mod 64` for a tail, by the number of its blocks. -/
theorem padZeros_of_lt {n : Nat} (hn : n < 64) : padZeros n = if n ≤ 55 then 55 - n else 119 - n := by
  unfold padZeros
  split <;> omega

theorem pad_length {tail : List Byte} (len : Nat) (ht : tail.length < 64) :
    (pad tail len).length = if tail.length ≤ 55 then 64 else 128 := by
  simp only [pad, List.length_append, List.length_singleton, copies, List.length_replicate, be64_length,
    padZeros_of_lt ht]
  split <;> omega

/-- R170: the count of zeros depends on the length modulo 64 only, so whole blocks stay in front of the padding. -/
theorem pad_append {full : List Byte} (hfull : 64 ∣ full.length) (tail : List Byte) (len : Nat) :
    pad (full ++ tail) len = full ++ pad tail len := by
  have hzeros : padZeros (full ++ tail).length = padZeros tail.length := by
    rw [List.length_append, padZeros, padZeros]
    omega
  simp only [pad, hzeros, List.append_assoc]

/-- Settles O51: R170's `(55 − n) mod 64` in its two ranges, and `8 × MAXLEN < 2^64`. -/
theorem paddingShape : Obligations.PaddingShape := by
  unfold Obligations.PaddingShape
  intro tail len ht hlen
  refine ⟨?_, pad_length len ht, ?_⟩
  · rw [pad, padZeros_of_lt ht, copies]
  · rw [BitVec.toNat_ofNat]
    omega

/-! ## The blocks of a sequence (R171) -/

theorem blocksOf_append {full : List Byte} (hfull : 64 ∣ full.length) (p : List Byte) :
    blocksOf (full ++ p) = blocksOf full ++ blocksOf p := by
  obtain ⟨q, hq⟩ := hfull
  have hcount : (full ++ p).length / 64 = q + p.length / 64 := by
    rw [List.length_append, hq]
    omega
  have hfront : full.length / 64 = q := by omega
  have hfirst : ∀ k ∈ List.range q,
      words (((full ++ p).drop (64 * k)).take 64) = words ((full.drop (64 * k)).take 64) := by
    intro k hk
    rw [List.mem_range] at hk
    rw [List.drop_append_of_le_length (by omega), List.take_append_of_le_length (by rw [List.length_drop]; omega)]
  have hlater : ∀ k, (full ++ p).drop (64 * (q + k)) = p.drop (64 * k) := by
    intro k
    rw [Nat.mul_add, ← hq, List.drop_length_add_append]
  simp only [blocksOf, hcount, hfront, List.range_add, List.map_append, List.map_map, Function.comp_def, hlater]
  rw [List.map_congr_left hfirst]

theorem blocksOf_of_length_eq {p : List Byte} (hp : p.length = 64) : blocksOf p = [words p] := by
  simp [blocksOf, hp, List.take_of_length_le hp.le]

theorem blocksOf_of_length_double {p : List Byte} (hp : p.length = 128) :
    blocksOf p = [words (p.take 64), words (p.drop 64)] := by
  have hfront : (p.take 64).length = 64 := by rw [List.length_take]; omega
  have hback : (p.drop 64).length = 64 := by rw [List.length_drop]; omega
  have hcut := blocksOf_append (dvd_of_eq hfront.symm) (p.drop 64)
  rwa [List.take_append_drop, blocksOf_of_length_eq hfront, blocksOf_of_length_eq hback] at hcut

theorem padBlocks_append {full : List Byte} (hfull : 64 ∣ full.length) (tail : List Byte) (len : Nat) :
    padBlocks (full ++ tail) len = blocksOf full ++ padBlocks tail len := by
  rw [padBlocks, pad_append hfull, blocksOf_append hfull, padBlocks]

/-- R170: the final blocks of a tail. -/
theorem padBlocks_of_lt {tail : List Byte} (len : Nat) (ht : tail.length < 64) :
    padBlocks tail len =
      if tail.length ≤ 55 then [words (pad tail len)]
      else [words ((pad tail len).take 64), words ((pad tail len).drop 64)] := by
  have hlen := pad_length len ht
  rw [padBlocks]
  split at hlen
  next h => rw [if_pos h, blocksOf_of_length_eq hlen]
  next h => rw [if_neg h, blocksOf_of_length_double hlen]

theorem padBlocks_length {tail : List Byte} (len : Nat) (ht : tail.length < 64) :
    (padBlocks tail len).length = if tail.length ≤ 55 then 1 else 2 := by
  rw [padBlocks_of_lt len ht]
  split <;> rfl

/-! ## Finish (R171) -/

theorem finish_of_lt (h : Hash) {tail : List Byte} (len : Nat) (ht : tail.length < 64) :
    finish h tail len =
      if tail.length ≤ 55 then compress h (words (pad tail len))
      else compress (compress h (words ((pad tail len).take 64))) (words ((pad tail len).drop 64)) := by
  rw [finish, padBlocks_of_lt len ht]
  split <;> rfl

/-- R182, R183: the blocks of a message that are compressed as they come leave to Finish the bytes after them. -/
theorem finish_blocksOf_foldl {full : List Byte} (hfull : 64 ∣ full.length) (h : Hash) (tail : List Byte) (len : Nat) :
    finish ((blocksOf full).foldl compress h) tail len = finish h (full ++ tail) len := by
  rw [finish, finish, padBlocks_append hfull, List.foldl_append]

/-- Settles O52: the padded tail is one block or two; the outer HMAC stream's tail is the 20 bytes of a digest. -/
theorem finishCompressesThePaddedTail : Obligations.FinishCompressesThePaddedTail := by
  unfold Obligations.FinishCompressesThePaddedTail
  refine ⟨fun h tail len => finish_of_lt h len, fun h inner => ?_⟩
  rw [finish_of_lt h 84 (by rw [ser_length]; decide), if_pos (by rw [ser_length]; decide), pad, ser_length]
  rfl

end Sys2Proof.Machine
end

section
/-! PROOFS. spec/42_hash_stream.md sections 2 to 5: the data writes, the session commands, and the FINAL
completion. -/

namespace Sys2Proof.Machine

/-! ## Writes that the checks stop (R251, R256) -/

theorem CoreState.dinWrite_of_reject {c : CoreState} {bs : List Byte} {code : ErrCode}
    (hv : dinCheck c bs.length = .reject code) :
    c.dinWrite bs = { c with err := if c.err = .none then code else c.err } := by
  rw [CoreState.dinWrite, hv, guarded_reject, raise_eq]

theorem CoreState.dinWrite_of_ignore {c : CoreState} {bs : List Byte} (hv : dinCheck c bs.length = .ignore) :
    c.dinWrite bs = c := by
  rw [CoreState.dinWrite, hv, guarded_ignore]

theorem CoreState.cmdWrite_of_reject {c : CoreState} {cmd : Option Command} {code : ErrCode}
    (hv : cmdCheck c cmd = .reject code) :
    c.cmdWrite cmd = { c with err := if c.err = .none then code else c.err } := by
  rw [CoreState.cmdWrite, hv, guarded_reject, raise_eq]

theorem CoreState.cmdWrite_of_ignore {c : CoreState} {cmd : Option Command} (hv : cmdCheck c cmd = .ignore) :
    c.cmdWrite cmd = c := by
  rw [CoreState.cmdWrite, hv, guarded_ignore]

/-- R252 -/
theorem CoreState.cmdWrite_busy {c : CoreState} {cmd : Option Command} (hj : c.job ≠ .none) (ha : cmd ≠ some .abort) :
    c.cmdWrite cmd = { c with err := if c.err = .none then .busy else c.err } :=
  cmdWrite_of_reject (cmdCheck_busy c cmd ha hj)

/-- R252 -/
theorem CoreState.dinWrite_busy {c : CoreState} (hj : c.job ≠ .none) (bs : List Byte) :
    c.dinWrite bs = { c with err := if c.err = .none then .busy else c.err } :=
  dinWrite_of_reject (dinCheck_busy c bs.length hj)

/-- Settles O13: with a job in flight the checks stop every write but ABORT's. -/
theorem jobInFlightIsUndisturbed : Obligations.JobInFlightIsUndisturbed := by
  unfold Obligations.JobInFlightIsUndisturbed
  intro i s hwf habort hj
  obtain ⟨t, ht⟩ := exec_next i s
  refine ⟨t, ht, ?_, exec_events ht⟩
  rcases exec_core_cases_of_wf hwf ht with hc | hc | ⟨cmd, rfl, hc⟩ | ⟨bs, -, hc⟩
  · rw [hc]
  · rw [hc, CoreState.cmdWrite_busy hj (by simp)]
  · have hcmd : some cmd ≠ some Command.abort := by rintro ⟨⟩; exact habort rfl
    rw [hc, CoreState.cmdWrite_busy hj hcmd]
  · rw [hc, CoreState.dinWrite_busy hj]

/-! ## Data writes (R173 to R177) -/

/-- R173: every byte counts. -/
theorem CoreState.pushBytes_streamlen {bs : List Byte} :
    ∀ c : CoreState, (c.pushBytes bs).streamlen = c.streamlen + bs.length := by
  induction bs with
  | nil => exact fun _ => rfl
  | cons b bs ih =>
    intro c
    rw [pushBytes_cons, ih, pushByte_streamlen, List.length_cons, Nat.add_right_comm, Nat.add_assoc]

/-- Settles O31: one case for each check of R261. -/
theorem dataWriteCheckOrder : Obligations.DataWriteCheckOrder := by
  unfold Obligations.DataWriteCheckOrder
  intro i bs s hd streamlen
  rw [exec_dataWrite hd, State.mapCore]
  by_cases hj : s.core.job = .none
  · have hv : dinCheck s.core bs.length =
        if s.core.err ≠ .none then .ignore
        else if ¬(s.core.phase = .key ∨ s.core.phase = .msg) then .reject .seq
        else if streamlen s.core + bs.length > 2 ^ 61 - 1 then .reject .length
        else .accept := dinCheck_idle s.core bs.length hj
    rw [if_neg (not_not.mpr hj)]
    split_ifs at hv ⊢ with herr hphase hlong
    · rw [CoreState.dinWrite_of_ignore hv]
    · rw [CoreState.dinWrite_of_reject hv, if_pos (not_not.mp herr)]
    · obtain ⟨-, -, -, hkeep⟩ := CoreState.pushBytes_frame bs s.core
      refine ⟨_, rfl, ?_, ?_⟩ <;> rw [CoreState.dinWrite_of_accept hv]
      · exact CoreState.pushBytes_streamlen s.core
      · exact hkeep.trans (not_not.mp herr)
    · rw [CoreState.dinWrite_of_reject hv, if_pos (not_not.mp herr)]
  · rw [if_pos hj, CoreState.dinWrite_busy hj]

/-- Settles O39: the write is accepted, and all its bytes go to K. -/
theorem dataWritesFillTheKeyBuffer : Obligations.DataWritesFillTheKeyBuffer := by
  unfold Obligations.DataWritesFillTheKeyBuffer
  intro i bs s hd hj herr hs hfit
  have hv := dinCheck_accept_of_streamsToKey hj herr hs (isDataWrite_length_le hd)
  obtain ⟨key', n', hpush, hn', hbytes, hkeep⟩ := CoreState.pushBytes_keyForm hs hfit
  rw [exec_dataWrite hd, State.mapCore, CoreState.dinWrite_of_accept hv, hpush]
  exact ⟨_, rfl, hn', hbytes, hkeep, rfl⟩

theorem CoreState.tail_length (c : CoreState) : c.tail.length = c.fill.val := by
  have hfill := c.fill.isLt
  simp only [CoreState.tail, List.length_take, Vector.length_toList]
  omega

theorem CoreState.tail_length_lt (c : CoreState) : c.tail.length < 64 := by
  rw [c.tail_length]
  exact c.fill.isLt

/-- R175: the 64th byte of the buffer starts the BLOCK job of all 64 and leaves the buffer empty. -/
theorem CoreState.pushByte_bufferFull {c : CoreState} (hs : ¬c.streamsToKey) (hf : c.fill = 63) (b : Byte) :
    c.pushByte b =
      { c with
        blockbuf := c.blockbuf.set 63 b, fill := 0, msglen := c.msglen + 1
        job := .block (words (c.tail ++ [b])) } := by
  have hbuf : (c.blockbuf.set 63 b).toList = c.tail ++ [b] := by
    rw [CoreState.tail, hf, ← toList_set_take_succ c.blockbuf (by decide) b]
    exact (List.take_of_length_le (by simp)).symm
  rw [c.pushByte_msg b hs, CoreState.msgPushByte, dif_neg (by simp [hf]), ← hbuf]
  simp only [hf]
  rfl

/-- R175, R181: bytes that fill the block buffer start a BLOCK job, and those after them are buffered. -/
theorem CoreState.pushBytes_blockForm {c : CoreState} {as : List Byte} {b : Byte} {cs : List Byte}
    (hs : ¬c.streamsToKey) (hfull : c.fill.val + as.length = 63) (hroom : cs.length < 64) :
    ∃ (buf' : Vector Byte 64) (f' : Fin 64),
      c.pushBytes (as ++ b :: cs) =
        { c with
          blockbuf := buf', fill := f', msglen := c.msglen + (as ++ b :: cs).length
          job := .block (words (c.tail ++ as ++ [b])) } ∧
      f'.val = cs.length ∧ buf'.toList.take f'.val = cs ∧
      ∀ k (hk : k < 64), k < c.fill.val → cs.length ≤ k → buf'[k] = c.blockbuf[k] := by
  obtain ⟨buf, f, hfront, hf, hbytes, hkeep⟩ := pushBytes_bufferForm (bs := as) hs (by omega)
  obtain rfl : f = 63 := Fin.ext (hf.trans hfull)
  have hstart := pushByte_bufferFull
    (c := { c with blockbuf := buf, fill := 63, msglen := c.msglen + as.length }) hs rfl b
  rw [show CoreState.tail { c with blockbuf := buf, fill := 63, msglen := c.msglen + as.length } = c.tail ++ as
    from hbytes] at hstart
  obtain ⟨buf', f', hback, hf', htail, hkeep'⟩ := pushBytes_bufferForm (bs := cs)
    (c := CoreState.pushByte { c with blockbuf := buf, fill := 63, msglen := c.msglen + as.length } b)
    (by rwa [hstart]) (by rw [hstart]; simpa using hroom)
  simp only [hstart] at hback hf' htail hkeep'
  refine ⟨buf', f', ?_, ?_, ?_, ?_⟩
  · have hlen : c.msglen + as.length + 1 + cs.length = c.msglen + (as ++ b :: cs).length := by
      rw [List.length_append, List.length_cons]
      omega
    rw [pushBytes_append, hfront, pushBytes_cons, hstart, hback, hlen]
  · simpa using hf'
  · rw [htail]
    rfl
  · intro k hk hlow hhigh
    rw [hkeep' k hk (.inr (by simpa using hhigh)), Vector.getElem_set_ne _ _ (by omega), hkeep k hk (.inl hlow)]

theorem exists_eq_append_cons {α : Type} {n : Nat} {l : List α} (hn : n < l.length) :
    ∃ as b cs, l = as ++ b :: cs ∧ as.length = n :=
  ⟨l.take n, l[n], l.drop (n + 1), by rw [← List.drop_eq_getElem_cons hn, List.take_append_drop],
    List.length_take_of_le hn.le⟩

/-- R175: everything that the bytes of one write do in the buffer path. -/
theorem CoreState.pushBytes_streamForm {c : CoreState} {bs : List Byte} (hs : ¬c.streamsToKey) (hlen : bs.length ≤ 4) :
    ∃ (buf' : Vector Byte 64) (f' : Fin 64) (j' : Job),
      c.pushBytes bs = { c with blockbuf := buf', fill := f', job := j', msglen := c.msglen + bs.length } ∧
      (if c.fill.val + bs.length < 64 then
        j' = c.job ∧ buf'.toList.take f'.val = c.tail ++ bs ∧ f'.val = c.fill.val + bs.length
      else
        j' = .block (words ((c.tail ++ bs).take 64)) ∧ buf'.toList.take f'.val = (c.tail ++ bs).drop 64 ∧
          f'.val = c.fill.val + bs.length - 64) ∧
      ∀ k (hk : k < 64), (∀ n < bs.length, k ≠ (c.fill.val + n) % 64) → buf'[k] = c.blockbuf[k] := by
  have hfill := c.fill.isLt
  split
  next hfit =>
    obtain ⟨buf', f', hpush, hf', htail, hkeep⟩ := pushBytes_bufferForm hs hfit
    refine ⟨buf', f', c.job, hpush, ⟨rfl, htail, hf'⟩, fun k hk hout => hkeep k hk ?_⟩
    by_contra hin
    exact hout (k - c.fill.val) (by omega) (by omega)
  next hfits =>
    obtain ⟨as, b, cs, rfl, has⟩ := exists_eq_append_cons (l := bs) (n := 63 - c.fill.val) (by omega)
    rw [List.length_append, List.length_cons] at hlen hfits
    obtain ⟨buf', f', hpush, hf', htail, hkeep⟩ :=
      pushBytes_blockForm (as := as) (b := b) (cs := cs) hs (by omega) (by omega)
    have hcut : c.tail ++ (as ++ b :: cs) = (c.tail ++ as ++ [b]) ++ cs := by simp
    have h64 : (c.tail ++ as ++ [b]).length = 64 := by
      rw [List.length_append, List.length_append, c.tail_length, List.length_singleton]
      omega
    rw [hcut, List.take_left' h64, List.drop_left' h64]
    rw [List.length_append, List.length_cons] at hpush ⊢
    refine ⟨buf', f', _, hpush, ⟨rfl, htail, by omega⟩, fun k hk hout => hkeep k hk ?_ ?_⟩
    · by_contra hin
      exact hout (k - c.fill.val) (by omega) (by omega)
    · by_contra hin
      exact hout (as.length + 1 + k) (by omega) (by omega)

/-- Settles O38: the write is accepted, and all its bytes go to the block buffer. -/
theorem dataWritesFillTheBlockBuffer : Obligations.DataWritesFillTheBlockBuffer := by
  unfold Obligations.DataWritesFillTheBlockBuffer
  intro i bs s hd hj herr hbuf hfits
  have hp : s.core.phase = .key ∨ s.core.phase = .msg := hbuf.symm.imp_left And.left
  have hs := (CoreState.streamsToBuffer_iff hp).mp hbuf
  have hv : dinCheck s.core bs.length = .accept :=
    (dinCheck_accept_iff s.core _).mpr ⟨hj, herr, hp, by rwa [CoreState.streamlen_of_not_streamsToKey hs]⟩
  obtain ⟨buf', f', j', hpush, hbytes, hkeep⟩ := CoreState.pushBytes_streamForm hs (isDataWrite_length_le hd)
  rw [hj] at hbytes
  rw [exec_dataWrite hd, State.mapCore, CoreState.dinWrite_of_accept hv, hpush]
  exact ⟨_, rfl, hbytes, hkeep, rfl⟩

/-! ## Session commands (R178, R179, R203, R207) -/

/-- Settles O25: the checks let INIT through with no job in flight. -/
theorem initStartsAHashSession : Obligations.InitStartsAHashSession := by
  unfold Obligations.InitStartsAHashSession
  refine ⟨decodeCmdWrite_word .init, fun s => ⟨fun hj => ?_, fun hj => ?_⟩⟩
  · rw [show exec .init s = _ from exec_command .init s, State.mapCore, CoreState.cmdWrite_busy hj (by decide)]
  · rw [show exec .init s = _ from exec_command .init s, State.mapCore,
      CoreState.cmdWrite_of_accept (cmdCheck_startsSession s.core .init hj rfl)]
    refine ⟨_, rfl, rfl, ?_⟩
    simp only [CoreState.runCommand, CoreState.startSession, status, CoreState.busy, CoreState.done, hj]
    decide

/-- R39: a job in flight shows in STATUS as BUSY only. -/
theorem status_startJob {c : CoreState} (hj : c.job = .none) {j : Job} (hne : j ≠ .none) :
    status (c.startJob j) = (status c ||| 1) := by
  have hbusy : flag (c.startJob j).busy = flag c.busy ||| 1 := by simp [CoreState.busy, hj, hne, flag]
  have hlast : ∀ busy done mode phase keyhash err fill : Word,
      (busy ||| 1 ||| done ||| mode ||| phase ||| keyhash ||| err ||| fill) =
        (busy ||| done ||| mode ||| phase ||| keyhash ||| err ||| fill ||| 1) := by
    intros
    ac_rfl
  rw [status, status, hbusy]
  exact hlast _ _ _ _ _ _ _

/-- R252 -/
theorem exec_command_busy {cmd : Command} {s : State} (hj : s.core.job ≠ .none) (ha : cmd ≠ .abort) :
    exec cmd.instr s =
      .next { s with core := { s.core with err := if s.core.err = .none then .busy else s.core.err } } := by
  rw [exec_command, State.mapCore, CoreState.cmdWrite_busy hj (by simpa using ha)]

/-- R256 -/
theorem exec_finishing_ignored {cmd : Command} {s : State} (hj : s.core.job = .none) (herr : s.core.err ≠ .none)
    (hs : startsSession cmd = false) (ha : cmd ≠ .abort) : exec cmd.instr s = .next s := by
  have hv := cmdCheck_finishing s.core cmd hj hs ha
  rw [if_pos herr] at hv
  rw [exec_command, State.mapCore, CoreState.cmdWrite_of_ignore hv]

/-- R254 -/
theorem exec_finishing_seq {cmd : Command} {s : State} (hj : s.core.job = .none) (herr : s.core.err = .none)
    (hs : startsSession cmd = false) (ha : cmd ≠ .abort) (hm : ¬cmdAllowed cmd s.core.mode s.core.phase = true) :
    exec cmd.instr s = .next { s with core := { s.core with err := .seq } } := by
  have hv := cmdCheck_finishing s.core cmd hj hs ha
  rw [if_neg (not_not.mpr herr), if_neg hm] at hv
  rw [exec_command, State.mapCore, CoreState.cmdWrite_of_reject hv, if_pos herr]

theorem exec_command_accepted {cmd : Command} {s : State} (hj : s.core.job = .none) (herr : s.core.err = .none)
    (hm : cmdAllowed cmd s.core.mode s.core.phase = true) :
    exec cmd.instr s = .next { s with core := s.core.runCommand cmd } := by
  rw [exec_command, State.mapCore,
    CoreState.cmdWrite_of_accept ((cmdCheck_accept_iff s.core cmd).mpr (.inr ⟨hj, .inr ⟨herr, hm⟩⟩))]

theorem exists_finishing_of_mem {i : Instr} (hi : i ∈ ([.final, .hmacKeyEnd, .hmacFinal] : List Instr)) :
    ∃ cmd : Command, i = cmd.instr ∧ startsSession cmd = false ∧ cmd ≠ .abort := by
  simp only [List.mem_cons, List.not_mem_nil, or_false] at hi
  rcases hi with rfl | rfl | rfl
  · exact ⟨.final, rfl, rfl, by decide⟩
  · exact ⟨.hmacKeyEnd, rfl, rfl, by decide⟩
  · exact ⟨.hmacFinal, rfl, rfl, by decide⟩

/-- Settles O27: the three finishing commands pass the same checks and differ in the session state and the job. -/
theorem finishingCommandsIssueTheirJob : Obligations.FinishingCommandsIssueTheirJob := by
  unfold Obligations.FinishingCommandsIssueTheirJob
  refine ⟨decodeCmdWrite_word .final, decodeCmdWrite_word .hmacKeyEnd, decodeCmdWrite_word .hmacFinal, fun s => ?_⟩
  refine ⟨fun hj i hi => ?_, fun hj herr i hi => ?_, fun hj herr => ⟨?_, ?_, ?_, ?_, ?_, ?_⟩⟩
  · obtain ⟨cmd, rfl, -, ha⟩ := exists_finishing_of_mem hi
    exact exec_command_busy hj ha
  · obtain ⟨cmd, rfl, hs, ha⟩ := exists_finishing_of_mem hi
    exact exec_finishing_ignored hj herr hs ha
  · intro hm hp
    exact ⟨exec_command_accepted (cmd := .final) hj herr (by simp [cmdAllowed, hm, hp]), status_startJob hj (by simp)⟩
  · intro hm hp
    exact ⟨exec_command_accepted (cmd := .hmacKeyEnd) hj herr (by simp [cmdAllowed, hm, hp]),
      status_startJob hj (by simp)⟩
  · intro hm hp
    exact ⟨exec_command_accepted (cmd := .hmacFinal) hj herr (by simp [cmdAllowed, hm, hp]),
      status_startJob hj (by simp)⟩
  · exact fun hm => exec_finishing_seq (cmd := .final) hj herr rfl (by decide) (by simpa [cmdAllowed] using hm)
  · exact fun hm => exec_finishing_seq (cmd := .hmacKeyEnd) hj herr rfl (by decide) (by simpa [cmdAllowed] using hm)
  · exact fun hm => exec_finishing_seq (cmd := .hmacFinal) hj herr rfl (by decide) (by simpa [cmdAllowed] using hm)

/-! ## FINAL completion (R180) -/

/-- R130, R141: several compressions on the core's registers, by the compression function. -/
theorem CoreState.compressBlocks_h_eq {blks : List Block} :
    ∀ c : CoreState, (c.compressBlocks blks).h = blks.foldl compress c.h := by
  induction blks with
  | nil => exact fun _ => rfl
  | cons blk blks ih =>
    intro c
    rw [compressBlocks_cons, ih, compressBlock_eq, List.foldl_cons]

/-- R180: the completion by Finish, with the engine's registers as a variable. -/
theorem CoreState.complete_final_form {c : CoreState} (hj : c.job = .final) :
    ∃ e', c.complete =
      { c with h := finish c.h c.tail c.msglen, fill := 0, phase := .result, job := .none, eng := e' } := by
  have hh := c.compressBlocks_h_eq (blks := padBlocks c.tail c.msglen)
  obtain ⟨h', e', hform⟩ := c.compressBlocks_form (padBlocks c.tail c.msglen)
  rw [hform] at hh
  refine ⟨e', ?_⟩
  rw [c.complete_final hj, CoreState.completeFinal, hform, finish, ← hh]

/-- Settles O54: the padded tail is one block or two, and compressing them is Finish. -/
theorem finalCompletion : Obligations.FinalCompletion := by
  unfold Obligations.FinalCompletion
  intro s rest hj hev
  refine ⟨?_, _, step_engine hev, ?_⟩
  · rw [padBlocks_length s.core.msglen s.core.tail_length_lt, s.core.tail_length]
  · obtain ⟨e', hcomplete⟩ := CoreState.complete_final_form hj
    simp only [engineStep, State.mapCore, hcomplete]

end Sys2Proof.Machine
end

section
/-! PROOFS. spec/42_hash_stream.md section 5: the result of a SHA-1 session (R182, R183). A run is first taken down to
the core; what a core has absorbed of a stream is then an invariant of the events of a session. -/

namespace Sys2Proof.Machine

/-! ## A run on the core (R81, R290) -/

/-- What one event of the schedule does to the core. -/
def Event.onCore (c : CoreState) : Event → CoreState
  | .host (.write idx wdata) =>
    if idx = 0x1 then c.cmdWrite (decodeCmd wdata)
    else if idx = 0x3 then c.dinWrite (dinWordBytes wdata)
    else if idx = 0x4 then c.dinWrite (dinByteBytes wdata)
    else c
  | .host (.read _) => c
  | .engine => c.complete
  | .reset => CoreState.reset

theorem exec_decodeCmdWrite (w : Word) (s : State) :
    exec (decodeCmdWrite w) s = .next (s.mapCore fun c => c.cmdWrite (decodeCmd w)) := by
  unfold decodeCmdWrite
  split
  next cmd hcmd => rw [exec_command, hcmd]
  next => exact exec_wrCmd w s

/-- R236: a write to any slot but CMD and the two data slots. -/
theorem exec_write_ignored {idx : BitVec 4} (h1 : idx ≠ 0x1) (h3 : idx ≠ 0x3) (h4 : idx ≠ 0x4) (w : Word) (s : State) :
    exec (decode (.write idx w)) s = .next s := by
  rcases slot_cases idx with rfl | rfl | rfl | rfl | rfl | rfl | rfl | rfl | rfl | rfl | ⟨lo, rfl⟩ | ⟨lo, rfl⟩
  case inr.inl => exact absurd rfl h1
  case inr.inr.inr.inl => exact absurd rfl h3
  case inr.inr.inr.inr.inl => exact absurd rfl h4
  case inr.inr.inr.inr.inr.inr.inr.inr.inr.inr.inl => rw [decode, decodeWrite_rsvdA]; rfl
  case inr.inr.inr.inr.inr.inr.inr.inr.inr.inr.inr => rw [decode, decodeWrite_rsvdB]; rfl
  all_goals rfl

theorem exec_write_core (idx : BitVec 4) (w : Word) (s : State) :
    exec (decode (.write idx w)) s = .next (s.mapCore fun c => Event.onCore c (.host (.write idx w))) := by
  simp only [Event.onCore]
  split_ifs with h1 h3 h4
  · rw [h1]
    exact exec_decodeCmdWrite w s
  · rw [h3]
    exact exec_wrDinWord w s
  · rw [h4]
    exact exec_wrDinByte w s
  · exact exec_write_ignored h1 h3 h4 w s

theorem step_core {s t : State} {e : Event} {rest : List Event} (hev : s.events = e :: rest) (h : step s = .next t) :
    t.core = e.onCore s.core := by
  match e with
  | .host (.read idx) =>
    obtain ⟨u, hu, hcore, -⟩ := readsHaveNoSideEffect idx { s with events := rest }
    rw [step_host hev, hu] at h
    cases h
    exact hcore
  | .host (.write idx w) =>
    rw [step_host hev, exec_write_core] at h
    cases h
    rfl
  | .engine =>
    rw [step_engine hev] at h
    cases h
    rfl
  | .reset =>
    rw [step_reset hev] at h
    cases h
    rfl

/-- A run of the whole schedule is its events on the core, one after another. -/
theorem run_core {evs : List Event} : ∀ {s t : State}, s.events = evs →
    Host.Core.run Sys2Proof.core evs.length s = .next t → t.core = evs.foldl Event.onCore s.core := by
  induction evs with
  | nil =>
    intro s t _ h
    cases h
    rfl
  | cons e rest ih =>
    intro s t hev h
    obtain ⟨u, hu⟩ := step_next s
    have hrest : u.events = rest := by rw [step_events hu, hev, List.tail_cons]
    rw [List.length_cons, run_succ_of_step hu] at h
    rw [ih hrest h, step_core hev hu, List.foldl_cons]

/-! ## Errors along a session (R251, R255) -/

theorem CoreState.guarded_accept_of_err {c : CoreState} {v : Verdict} {effect : CoreState → CoreState}
    (hreject : v ≠ .reject .none) (hignore : v = .ignore → c.err ≠ .none) (h : (c.guarded v effect).err = .none) :
    v = .accept := by
  cases v with
  | accept => rfl
  | ignore => exact absurd h (hignore rfl)
  | reject code =>
    rw [guarded_reject] at h
    by_cases herr : c.err = .none
    · rw [raise_none c code herr] at h
      exact absurd (congrArg Verdict.reject h) hreject
    · rw [raise_some c code herr] at h
      exact absurd h herr

/-- R261: a data write that leaves no error was accepted. -/
theorem CoreState.dinCheck_of_dinWrite_err {c : CoreState} {bs : List Byte} (h : (c.dinWrite bs).err = .none) :
    dinCheck c bs.length = .accept := by
  refine guarded_accept_of_err ?_ ?_ h <;> unfold dinCheck
  · split_ifs <;> simp
  · split_ifs <;> simp_all

/-- R260: a command that leaves no error was accepted. -/
theorem CoreState.cmdCheck_of_cmdWrite_err {c : CoreState} {cmd : Command} (h : (c.cmdWrite (some cmd)).err = .none) :
    cmdCheck c (some cmd) = .accept := by
  by_cases ha : cmd = .abort
  · rw [ha, cmdCheck_abort]
  by_cases hj : c.job = .none
  · cases hs : startsSession cmd with
    | true => exact cmdCheck_startsSession c cmd hj hs
    | false =>
      refine guarded_accept_of_err ?_ ?_ h <;> rw [cmdCheck_finishing c cmd hj hs ha]
      · split_ifs <;> simp
      · split_ifs with herr <;> simp [herr]
  · have hbusy := cmdCheck_busy c (some cmd) (by simpa using ha) hj
    exact guarded_accept_of_err (by simp [hbusy]) (by simp [hbusy]) h

/-- What an event that is neither a command nor a reset does to the core, and the bytes it delivers. -/
theorem Event.onCore_cases {e : Event} (he : e.isCommandFree = true) (c : CoreState) :
    (eventBytes e = [] ∧ (e.onCore c = c ∨ e.onCore c = c.complete)) ∨
      ((eventBytes e).length ≤ 4 ∧ e.onCore c = c.dinWrite (eventBytes e)) := by
  match e with
  | .host (.read idx) => exact .inl ⟨rfl, .inl rfl⟩
  | .engine => exact .inl ⟨rfl, .inr rfl⟩
  | .host (.write idx w) =>
    have hidx : idx ≠ 0x1 := of_decide_eq_true he
    simp only [Event.onCore, if_neg hidx, eventBytes]
    split
    · exact .inr ⟨Nat.le_refl 4, rfl⟩
    · split
      · exact .inr ⟨(by decide : 1 ≤ 4), rfl⟩
      · exact .inl ⟨rfl, .inl rfl⟩

theorem CoreState.complete_err (c : CoreState) : c.complete.err = c.err := by
  rcases c.complete_cases with ⟨-, hc⟩ | ⟨blk, h', e', -, hc⟩ | ⟨h', e', -, hc⟩ | ⟨h', e', k', -, -, hc⟩ <;> rw [hc]

theorem Event.err_of_onCore {e : Event} (he : e.isCommandFree = true) {c : CoreState}
    (h : (e.onCore c).err = .none) : c.err = .none := by
  rcases e.onCore_cases he c with ⟨-, hc | hc⟩ | ⟨-, hc⟩ <;> rw [hc] at h
  · exact h
  · rwa [CoreState.complete_err] at h
  · exact ((dinCheck_accept_iff c _).mp (CoreState.dinCheck_of_dinWrite_err h)).2.1

theorem err_of_foldl_onCore {evs : List Event} (hevs : evs.all Event.isCommandFree = true) :
    ∀ {c : CoreState}, (evs.foldl Event.onCore c).err = .none → c.err = .none := by
  induction evs with
  | nil => exact id
  | cons e rest ih =>
    intro c h
    rw [List.all_cons, Bool.and_eq_true] at hevs
    obtain ⟨he, hrest⟩ := hevs
    exact e.err_of_onCore he (ih hrest h)

/-! ## What a core has absorbed of a stream (R144, R175, R182) -/

/-- H as it will be when the BLOCK job in flight, if there is one, has completed. -/
def CoreState.pendingHash (c : CoreState) : Hash :=
  match c.job with
  | .block blk => compress c.h blk
  | .none | .final | .keyEnd | .hFinal => c.h

theorem CoreState.pendingHash_block {c : CoreState} {blk : Block} (hj : c.job = .block blk) :
    c.pendingHash = compress c.h blk := by
  rw [CoreState.pendingHash, hj]

theorem CoreState.pendingHash_idle {c : CoreState} (hj : c.job = .none) : c.pendingHash = c.h := by
  rw [CoreState.pendingHash, hj]

/-- R182: from `c₀` on, with `m` the bytes of the stream so far, the core has come to `c`: the whole blocks of `m` are
compressed from the IV or in flight as a BLOCK job, the bytes after them are buffered, and nothing else has changed. -/
structure CoreState.Absorbed (c₀ : CoreState) (m : List Byte) (c : CoreState) : Prop where
  form : ∃ h' e' buf' f' j', c =
    { c₀ with h := h', eng := e', blockbuf := buf', fill := f', job := j', msglen := m.length }
  blocks : ∃ full, 64 ∣ full.length ∧ m = full ++ c.tail ∧ c.pendingHash = (blocksOf full).foldl compress iv
  job : c.job = .none ∨ ∃ blk, c.job = .block blk

theorem CoreState.Absorbed.streamsToKey_iff {c₀ c : CoreState} {m : List Byte} (h : c₀.Absorbed m c) :
    c.streamsToKey ↔ c₀.streamsToKey := by
  obtain ⟨h', e', buf', f', j', rfl⟩ := h.form
  rfl

/-- R144: a BLOCK completion only makes the pending hash the actual one. -/
theorem CoreState.Absorbed.complete {c₀ c : CoreState} {m : List Byte} (h : c₀.Absorbed m c) :
    c₀.Absorbed m c.complete := by
  rcases h.job with hj | ⟨blk, hj⟩
  · rwa [c.complete_idle hj]
  · have hc : c.complete = { c with h := compress c.h blk, eng := Engine.run c.h blk, job := .none } := by
      rw [c.complete_block blk hj, CoreState.completeBlock, compressBlock_eq]
    obtain ⟨full, hfull, hm, hhash⟩ := h.blocks
    obtain ⟨h', e', buf', f', j', hform⟩ := h.form
    rw [pendingHash_block hj] at hhash
    rw [hc]
    exact ⟨⟨_, _, buf', f', .none, by rw [hform]⟩, ⟨full, hfull, hm, hhash⟩, .inl rfl⟩

/-- R175: the bytes of an accepted write, with or without the BLOCK job they start. -/
theorem CoreState.Absorbed.pushBytes {c₀ c : CoreState} {m bs : List Byte} (h : c₀.Absorbed m c)
    (hs : ¬c₀.streamsToKey) (hj : c.job = .none) (hlen : bs.length ≤ 4) : c₀.Absorbed (m ++ bs) (c.pushBytes bs) := by
  obtain ⟨buf, f, j, hpush, hbytes, -⟩ := pushBytes_streamForm (mt h.streamsToKey_iff.mp hs) hlen
  obtain ⟨full, hfull, hm, hhash⟩ := h.blocks
  obtain ⟨h', e', buf', f', j', hform⟩ := h.form
  rw [pendingHash_idle hj] at hhash
  have hmsglen : c.msglen + bs.length = (m ++ bs).length := by rw [hform, List.length_append]
  have hnew : ∃ h' e' buf' f' j', c.pushBytes bs =
      { c₀ with h := h', eng := e', blockbuf := buf', fill := f', job := j', msglen := (m ++ bs).length } :=
    ⟨h', e', buf, f, j, by rw [hpush, hmsglen, hform]⟩
  have htail : (c.pushBytes bs).tail = buf.toList.take f.val := by rw [hpush, CoreState.tail]
  have hh : (c.pushBytes bs).h = (blocksOf full).foldl compress iv := by rw [hpush, ← hhash]
  have hjob : (c.pushBytes bs).job = j := by rw [hpush]
  split at hbytes
  next =>
    obtain ⟨hnone, hbuf, -⟩ := hbytes
    rw [hnone, hj] at hjob
    refine ⟨hnew, ⟨full, hfull, ?_, ?_⟩, .inl hjob⟩
    · rw [htail, hbuf, hm, List.append_assoc]
    · rw [pendingHash_idle hjob, hh]
  next hover =>
    obtain ⟨hblock, hbuf, -⟩ := hbytes
    rw [hblock] at hjob
    have h64 : ((c.tail ++ bs).take 64).length = 64 := by
      rw [List.length_take, List.length_append, c.tail_length]
      omega
    refine ⟨hnew, ⟨full ++ (c.tail ++ bs).take 64, ?_, ?_, ?_⟩, .inr ⟨_, hjob⟩⟩
    · rw [List.length_append, h64]
      exact Nat.dvd_add_self_right.mpr hfull
    · rw [htail, hbuf, List.append_assoc, List.take_append_drop, hm, List.append_assoc]
    · rw [pendingHash_block hjob, hh, blocksOf_append hfull, blocksOf_of_length_eq h64, List.foldl_append,
        List.foldl_cons, List.foldl_nil]

/-- An event of a stream that leaves no error: its bytes, if it has any, are absorbed. -/
theorem CoreState.Absorbed.onCore {c₀ c : CoreState} {m : List Byte} (h : c₀.Absorbed m c) (hs : ¬c₀.streamsToKey)
    {e : Event} (he : e.isCommandFree = true) (herr : (e.onCore c).err = .none) :
    c₀.Absorbed (m ++ eventBytes e) (e.onCore c) := by
  rcases e.onCore_cases he c with ⟨hbytes, hc | hc⟩ | ⟨hlen, hc⟩
  · rwa [hc, hbytes, List.append_nil]
  · rw [hc, hbytes, List.append_nil]
    exact h.complete
  · rw [hc] at herr ⊢
    have hv := CoreState.dinCheck_of_dinWrite_err herr
    obtain ⟨hj, -⟩ := (dinCheck_accept_iff c _).mp hv
    rw [CoreState.dinWrite_of_accept hv]
    exact h.pushBytes hs hj hlen

/-- R78, R176, R177, R183: however they are split into words and bytes, the delivered bytes are absorbed. -/
theorem CoreState.Absorbed.foldl_onCore {c₀ : CoreState} (hs : ¬c₀.streamsToKey) {evs : List Event}
    (hevs : evs.all Event.isCommandFree = true) : ∀ {m : List Byte} {c : CoreState}, c₀.Absorbed m c →
    (evs.foldl Event.onCore c).err = .none → c₀.Absorbed (m ++ deliveredBytes evs) (evs.foldl Event.onCore c) := by
  induction evs with
  | nil =>
    intro m c h _
    rwa [deliveredBytes, List.flatMap_nil, List.append_nil]
  | cons e rest ih =>
    intro m c h herr
    rw [List.all_cons, Bool.and_eq_true] at hevs
    obtain ⟨he, hrest⟩ := hevs
    have hnext := ih hrest (h.onCore hs he (err_of_foldl_onCore hrest herr)) herr
    rwa [List.append_assoc] at hnext

/-- R171, R183: the digest of the stream is what Finish makes of the absorbed bytes. -/
theorem CoreState.Absorbed.finish_eq_digest {c₀ c : CoreState} {m : List Byte} (h : c₀.Absorbed m c)
    (hj : c.job = .none) : finish c.h c.tail c.msglen = digest m := by
  obtain ⟨full, hfull, hm, hhash⟩ := h.blocks
  obtain ⟨h', e', buf', f', j', hform⟩ := h.form
  have hmsglen : c.msglen = m.length := by rw [hform]
  rw [pendingHash_idle hj] at hhash
  rw [hhash, finish_blocksOf_foldl hfull, ← hm, hmsglen, digest]

/-! ## From INIT to the result (R178 to R180, R183) -/

theorem Event.onCore_commandEvent (cmd : Command) (c : CoreState) :
    (commandEvent cmd).onCore c = c.cmdWrite (some cmd) := by
  have hword : decodeCmd cmd.word = some cmd := (decodeCmd_eq_some_iff cmd.word cmd).mpr rfl
  rw [commandEvent, Event.onCore, if_pos rfl, hword]

/-- R178: INIT that leaves no error starts a stream of no bytes. -/
theorem init_absorbed {c : CoreState} (h : (c.cmdWrite (some .init)).err = .none) :
    (c.startSession .hash .msg).Absorbed [] (c.cmdWrite (some .init)) := by
  have hv := CoreState.cmdCheck_of_cmdWrite_err h
  have hj : c.job = .none := by simpa [startsSession] using (cmdCheck_accept_iff c .init).mp hv
  rw [CoreState.cmdWrite_of_accept hv]
  exact ⟨⟨_, _, _, _, _, rfl⟩, ⟨[], dvd_zero 64, rfl, CoreState.pendingHash_idle hj⟩, .inl hj⟩

/-- R181, R299: while a finishing job runs and after it, the events that leave no error at most complete it. -/
theorem foldl_onCore_of_finishing {c : CoreState} (hj : c.job ≠ .none) (hr : c.complete.phase = .result)
    {evs : List Event} (hevs : evs.all Event.isCommandFree = true) :
    ∀ {c' : CoreState}, c' = c ∨ c' = c.complete → (evs.foldl Event.onCore c').err = .none →
      evs.foldl Event.onCore c' = c ∨ evs.foldl Event.onCore c' = c.complete := by
  induction evs with
  | nil => exact fun hc' _ => hc'
  | cons e rest ih =>
    intro c' hc' herr
    rw [List.all_cons, Bool.and_eq_true] at hevs
    obtain ⟨he, hrest⟩ := hevs
    refine ih hrest ?_ herr
    rcases e.onCore_cases he c' with ⟨-, hc | hc⟩ | ⟨-, hc⟩
    · rwa [hc]
    · rw [hc]
      rcases hc' with rfl | rfl
      · exact .inr rfl
      · exact .inr (CoreState.complete_idle _ c.complete_job)
    · have hstop := err_of_foldl_onCore hrest herr
      rw [hc] at hstop
      obtain ⟨hjob, -, hp, -⟩ := (dinCheck_accept_iff c' _).mp (CoreState.dinCheck_of_dinWrite_err hstop)
      rcases hc' with rfl | rfl
      · exact absurd hjob hj
      · simp [hr] at hp

/-- R38: STATUS of a SHA-1 result. -/
theorem status_of_hash_result {c : CoreState} (h : c.resultValid) (hm : c.mode = .hash) (hk : c.keyhash = false)
    (hf : c.fill = 0) : status c = 0x00000036 := by
  obtain ⟨hj, hp, herr⟩ := h
  have hbusy : c.busy = false := by simp [CoreState.busy, hj]
  have hdone : c.done = true := by simp [CoreState.done, hp]
  rw [status, hbusy, hdone, hm, hp, hk, herr, hf]
  rfl

/-- R180, R299: the result of a SHA-1 session, once its FINAL job has completed. -/
theorem CoreState.Absorbed.final_result {c₀ c : CoreState} {m : List Byte} (h : c₀.Absorbed m c) (hj : c.job = .none)
    (herr : c.err = .none) (hm : c₀.mode = .hash) (hk : c₀.keyhash = false) :
    (c.startJob .final).complete.h = digest m ∧ status (c.startJob .final).complete = 0x00000036 ∧
      (c.startJob .final).complete.resultValid := by
  obtain ⟨e', hdone⟩ := complete_final_form (c := c.startJob .final) rfl
  obtain ⟨h', e', buf', f', j', hform⟩ := h.form
  have hmode : c.mode = .hash := by rw [hform, hm]
  have hkeyhash : c.keyhash = false := by rw [hform, hk]
  rw [hdone]
  exact ⟨h.finish_eq_digest hj, status_of_hash_result ⟨rfl, rfl, herr⟩ hmode hkeyhash rfl, rfl, rfl, herr⟩

/-- Settles O57: INIT starts an empty stream, the body is absorbed into it, and FINAL's completion finishes it. -/
theorem hashSessionGivesTheDigest : Obligations.HashSessionGivesTheDigest := by
  unfold Obligations.HashSessionGivesTheDigest
  intro s t body polls hbody hpolls hev hrun herr
  have hcore : t.core = (polls.foldl Event.onCore
      ((body.foldl Event.onCore (s.core.cmdWrite (some .init))).cmdWrite (some .final))).complete := by
    rw [run_core rfl hrun, hev]
    simp only [List.foldl_append, List.foldl_cons, List.foldl_nil, Event.onCore_commandEvent]
    rfl
  generalize hc : body.foldl Event.onCore (s.core.cmdWrite (some .init)) = c at hcore
  rw [hcore, CoreState.complete_err] at herr
  have hv := CoreState.cmdCheck_of_cmdWrite_err (err_of_foldl_onCore hpolls herr)
  obtain ⟨hj, hclean, -, -⟩ : c.job = .none ∧ c.err = .none ∧ c.mode = .hash ∧ c.phase = .msg := by
    simpa [startsSession, cmdAllowed] using (cmdCheck_accept_iff c .final).mp hv
  have habs : (s.core.startSession .hash .msg).Absorbed (deliveredBytes body) c := by
    rw [← hc] at hclean ⊢
    have hstart := init_absorbed (err_of_foldl_onCore hbody hclean)
    exact hstart.foldl_onCore (by simp [CoreState.streamsToKey]) hbody hclean
  obtain ⟨hdigest, hstatus, hvalid⟩ := habs.final_result hj hclean rfl rfl
  have hend : t.core = (c.startJob .final).complete := by
    rw [CoreState.cmdWrite_of_accept hv] at hcore herr
    obtain ⟨-, hphase, -⟩ := hvalid
    rcases foldl_onCore_of_finishing (c := c.startJob .final) (by simp) hphase hpolls (.inl rfl) herr with
      hpoll | hpoll <;> rw [hcore]
    · exact congrArg CoreState.complete hpoll
    · exact (congrArg CoreState.complete hpoll).trans (CoreState.complete_idle _ (CoreState.complete_job _))
  rw [hend]
  exact ⟨hdigest, hstatus, hvalid⟩

end Sys2Proof.Machine
end

section
/-! PROOFS. spec/43_hmac_controller.md sections 1 and 2: HMAC_INIT, and the completions of HMAC_KEY_END and
HMAC_FINAL. -/

namespace Sys2Proof.Machine

/-! ## HMAC_INIT (R200) -/

/-- R260: the checks let the commands that start a session through with no job in flight. -/
theorem exec_startsSession {cmd : Command} {s : State} (hj : s.core.job = .none) (hs : startsSession cmd = true) :
    exec cmd.instr s = .next { s with core := s.core.runCommand cmd } := by
  rw [exec_command, State.mapCore, CoreState.cmdWrite_of_accept (cmdCheck_startsSession s.core cmd hj hs)]

theorem status_startSession_hmac {c : CoreState} (hj : c.job = .none) :
    status (c.startSession .hmac .key) = 0x00000018 := by
  simp only [status, CoreState.startSession, CoreState.busy, CoreState.done, hj]
  decide

/-- Settles O26: HMAC_INIT is one of the two commands that start a session whenever no job is in flight. -/
theorem hmacInitStartsTheKeyPhase : Obligations.HmacInitStartsTheKeyPhase := by
  unfold Obligations.HmacInitStartsTheKeyPhase
  refine ⟨decodeCmdWrite_word .hmacInit, fun s => ⟨fun hj => ?_, fun hj => ?_⟩⟩
  · exact exec_command_busy (cmd := .hmacInit) hj (by decide)
  · exact ⟨_, exec_startsSession (cmd := .hmacInit) hj rfl, rfl, status_startSession_hmac hj⟩

/-! ## HMAC_KEY_END completion (R204, R206) -/

/-- R171: compressing the final blocks of a stream is Finish; the engine's registers are a variable. -/
theorem CoreState.compressBlocks_padBlocks_form (c : CoreState) (tail : List Byte) (len : Nat) :
    ∃ e', c.compressBlocks (padBlocks tail len) = { c with h := finish c.h tail len, eng := e' } := by
  have hh := c.compressBlocks_h_eq (blks := padBlocks tail len)
  obtain ⟨h', e', hform⟩ := c.compressBlocks_form (padBlocks tail len)
  rw [hform] at hh
  exact ⟨e', by rw [hform, finish, ← hh]⟩

/-- R204, first part: what K is from the completion of HMAC_KEY_END on. -/
def CoreState.settledKey (c : CoreState) : Vector Byte 64 :=
  if c.keyhash then digestKey (finish c.h c.tail c.msglen) else c.key

theorem CoreState.settledKey_toList (c : CoreState) :
    c.settledKey.toList =
      if c.keyhash = true then ser (finish c.h c.tail c.msglen) ++ copies 0 44 else c.key.toList := by
  unfold CoreState.settledKey
  split <;> rfl

theorem CoreState.settleKey_eq (c : CoreState) :
    ∃ h' e', c.settleKey = { c with h := h', eng := e', key := c.settledKey } := by
  unfold CoreState.settleKey CoreState.settledKey
  split
  · obtain ⟨e', hform⟩ := c.compressBlocks_padBlocks_form c.tail c.msglen
    exact ⟨_, e', by rw [hform]⟩
  · exact ⟨c.h, c.eng, rfl⟩

/-- R204: the completion by the settled key, with the engine's registers as a variable. -/
theorem CoreState.complete_keyEnd_form {c : CoreState} (hj : c.job = .keyEnd) :
    ∃ e', c.complete =
      { c with
        h := compress iv (padBlock c.settledKey innerPadByte), eng := e', key := c.settledKey, msglen := 64, fill := 0
        phase := .msg, job := .none } := by
  obtain ⟨h', e', hsettle⟩ := c.settleKey_eq
  refine ⟨Engine.run iv (padBlock c.settledKey innerPadByte), ?_⟩
  rw [c.complete_keyEnd hj, CoreState.completeKeyEnd, hsettle]
  simp only [CoreState.compressBlock_eq]

/-- R170: the count of a stream's final blocks, by the fill of the buffer. -/
theorem CoreState.padBlocks_tail_length (c : CoreState) (len : Nat) :
    (padBlocks c.tail len).length = if c.fill.val ≤ 55 then 1 else 2 := by
  rw [padBlocks_length len c.tail_length_lt, c.tail_length]

/-- Settles O55: the key settles first, and the inner pad block is made of the settled key. -/
theorem keyEndCompletion : Obligations.KeyEndCompletion := by
  unfold Obligations.KeyEndCompletion
  intro s rest hj hev
  obtain ⟨e', hcomplete⟩ := CoreState.complete_keyEnd_form hj
  refine ⟨fun _ => s.core.padBlocks_tail_length _, _, step_engine hev, ?_, ?_⟩ <;>
    simp only [engineStep, State.mapCore, hcomplete]
  · exact s.core.settledKey_toList
  · rfl

/-! ## HMAC_FINAL completion (R206, R208) -/

/-- R208: the completion by Finish, with the engine's registers as a variable. -/
theorem CoreState.complete_hFinal_form {c : CoreState} (hj : c.job = .hFinal) :
    ∃ e', c.complete =
      { c with
        h := finish (compress iv (padBlock c.key outerPadByte)) (ser (finish c.h c.tail c.msglen)) 84
        eng := e', fill := 0, phase := .result, job := .none } := by
  obtain ⟨e₁, hinner⟩ := c.compressBlocks_padBlocks_form c.tail c.msglen
  obtain ⟨e₂, houter⟩ := CoreState.compressBlocks_padBlocks_form
    { c with
      h := compress iv (padBlock c.key outerPadByte), eng := Engine.run iv (padBlock c.key outerPadByte) }
    (ser (finish c.h c.tail c.msglen)) (64 + 20)
  refine ⟨e₂, ?_⟩
  rw [c.complete_hFinal hj, CoreState.completeHFinal, hinner]
  simp only [CoreState.compressBlock_eq, houter]

/-- Settles O56: the inner tail is the block buffer's, the outer tail the 20 bytes of the inner digest. -/
theorem hmacFinalCompletion : Obligations.HmacFinalCompletion := by
  unfold Obligations.HmacFinalCompletion
  intro s rest hj hev
  obtain ⟨e', hcomplete⟩ := CoreState.complete_hFinal_form hj
  refine ⟨s.core.padBlocks_tail_length _, ?_, _, step_engine hev, ?_⟩
  · rw [padBlocks_length 84 (by rw [ser_length]; decide), ser_length]
    rfl
  · simp only [engineStep, State.mapCore, hcomplete]
    rfl

end Sys2Proof.Machine
end

section
/-! PROOFS. spec/43_hmac_controller.md sections 2 and 3: the result of an HMAC session (R205, R209). In the key
phase, what a core has taken of the key is an invariant of the events; from the inner pad on, the message is one more stream. -/

namespace Sys2Proof.Machine

/-! ## Invariants of the events of a session -/

/-- A relation between the bytes delivered so far and the core, kept by every event that is neither a command nor a
reset and leaves no error, holds after all of them. -/
theorem foldl_onCore_invariant {P : List Byte → CoreState → Prop}
    (hstep : ∀ {e : Event} {m : List Byte} {c : CoreState}, e.isCommandFree = true → (e.onCore c).err = .none →
      P m c → P (m ++ eventBytes e) (e.onCore c))
    {evs : List Event} (hevs : evs.all Event.isCommandFree = true) : ∀ {m : List Byte} {c : CoreState}, P m c →
    (evs.foldl Event.onCore c).err = .none → P (m ++ deliveredBytes evs) (evs.foldl Event.onCore c) := by
  induction evs with
  | nil =>
    intro m c h _
    rwa [deliveredBytes, List.flatMap_nil, List.append_nil]
  | cons e rest ih =>
    intro m c h herr
    rw [List.all_cons, Bool.and_eq_true] at hevs
    obtain ⟨he, hrest⟩ := hevs
    have hnext := ih hrest (hstep he (err_of_foldl_onCore hrest herr) h) herr
    rwa [List.append_assoc] at hnext

theorem CoreState.Inv.onCore {c : CoreState} (h : c.Inv) {e : Event} (he : e.isCommandFree = true) :
    (e.onCore c).Inv := by
  rcases e.onCore_cases he c with ⟨-, hc | hc⟩ | ⟨-, hc⟩ <;> rw [hc]
  · exact h
  · exact h.complete
  · exact h.dinWrite _

/-! ## The padded key (R53, R200, R205) -/

/-- R53: K is the key bytes received, padded with zeros on the right. -/
theorem CoreState.Inv.key_toList {c : CoreState} (h : c.Inv) :
    c.key.toList = c.keyBytes ++ copies 0 (64 - c.keylen.val) := by
  have hzeros : c.key.toList.drop c.keylen.val = copies 0 (64 - c.keylen.val) := by
    refine List.ext_getElem (by simp [copies]) fun i hi _ => ?_
    rw [List.length_drop, Vector.length_toList] at hi
    simpa [copies] using h.keyZero (c.keylen.val + i) (by omega) (Nat.le_add_right ..)
  rw [← hzeros, CoreState.keyBytes, List.take_append_drop]

/-! ## What a core has taken of a key (R201, R202) -/

/-- R201, R202: from the start `c₀` of a key phase on, with `k` the key bytes so far, the core has come to `c`: up to 64
bytes stand in K, and a longer key is a stream whose first block was K. -/
inductive CoreState.KeyTaken (c₀ : CoreState) (k : List Byte) (c : CoreState) : Prop
  | plain (key' : Vector Byte 64) (n' : Fin 65) (form : c = { c₀ with key := key', keylen := n' })
      (bytes : c.keyBytes = k)
  | hashed (key' : Vector Byte 64) (long : 64 < k.length)
      (stream : CoreState.Absorbed { c₀ with key := key', keylen := 64, keyhash := true } k c)

section
variable {c₀ c : CoreState} {k : List Byte}

/-- R202: the bytes with which a key grows past 64: those up to number 64 and K are the first block of its stream. -/
theorem CoreState.absorbed_of_keyHash {as : List Byte} {b : Byte} {cs : List Byte} (hs : c.streamsToKey)
    (hfull : c.keylen.val + as.length = 64) (hroom : cs.length < 63) :
    ∃ key', CoreState.Absorbed { c with key := key', keylen := 64, keyhash := true } (c.keyBytes ++ (as ++ b :: cs))
      (c.pushBytes (as ++ b :: cs)) := by
  obtain ⟨key', buf', f', hpush, -, -, htail, -⟩ := pushBytes_keyHashForm (b := b) (cs := cs) hs hfull hroom
  have h64 : (c.keyBytes ++ as).length = 64 := by rw [List.length_append, c.keyBytes_length, hfull]
  have hlen : 65 + cs.length = (c.keyBytes ++ (as ++ b :: cs)).length := by
    rw [← List.append_assoc, List.length_append, h64, List.length_cons]
    omega
  rw [hpush]
  refine ⟨key', ⟨iv, c.eng, buf', f', _, by rw [hlen]⟩, ⟨c.keyBytes ++ as, dvd_of_eq h64.symm, ?_, ?_⟩, .inr ⟨_, rfl⟩⟩
  · rw [CoreState.tail, htail, List.append_assoc]
  · rw [pendingHash_block rfl, blocksOf_of_length_eq h64, List.foldl_cons, List.foldl_nil]

theorem CoreState.KeyTaken.pushBytes (h : c₀.KeyTaken k c) (hs : c₀.streamsToKey) (hj : c.job = .none)
    {bs : List Byte} (hlen : bs.length ≤ 4) : c₀.KeyTaken (k ++ bs) (c.pushBytes bs) := by
  cases h with
  | plain key' n' form bytes =>
    have hs' : c.streamsToKey := by rw [form]; exact hs
    have hkeylen := c.keylen.isLt
    rw [← bytes]
    by_cases hfit : c.keylen.val + bs.length ≤ 64
    · obtain ⟨key'', n'', hpush, -, hbytes, -⟩ := pushBytes_keyForm hs' hfit
      refine .plain key'' n'' (by rw [hpush, form]) ?_
      rw [hpush]
      exact hbytes
    · obtain ⟨as, b, cs, rfl, has⟩ := exists_eq_append_cons (l := bs) (n := 64 - c.keylen.val) (by omega)
      have hlong : 64 < (c.keyBytes ++ (as ++ b :: cs)).length := by
        rw [List.length_append, c.keyBytes_length]
        omega
      rw [List.length_append, List.length_cons] at hlen
      obtain ⟨key'', hstream⟩ := absorbed_of_keyHash (as := as) (b := b) (cs := cs) hs' (by omega) (by omega)
      refine .hashed key'' hlong ?_
      rw [form] at hstream ⊢
      exact hstream
  | hashed key' long stream =>
    refine .hashed key' ?_ (stream.pushBytes (by simp [CoreState.streamsToKey]) hj hlen)
    rw [List.length_append]
    omega

/-- An event of a key phase that leaves no error: its bytes, if it has any, are taken. -/
theorem CoreState.KeyTaken.onCore (h : c₀.KeyTaken k c) (hs : c₀.streamsToKey) (hj : c₀.job = .none) {e : Event}
    (he : e.isCommandFree = true) (herr : (e.onCore c).err = .none) : c₀.KeyTaken (k ++ eventBytes e) (e.onCore c) := by
  rcases e.onCore_cases he c with ⟨hbytes, hc | hc⟩ | ⟨hlen, hc⟩
  · rwa [hc, hbytes, List.append_nil]
  · rw [hc, hbytes, List.append_nil]
    cases h with
    | plain key' n' form bytes =>
      have hidle : c.job = .none := by rw [form, hj]
      rw [c.complete_idle hidle]
      exact .plain key' n' form bytes
    | hashed key' long stream => exact .hashed key' long stream.complete
  · rw [hc] at herr ⊢
    have hv := CoreState.dinCheck_of_dinWrite_err herr
    obtain ⟨hidle, -⟩ := (dinCheck_accept_iff c _).mp hv
    rw [CoreState.dinWrite_of_accept hv]
    exact h.pushBytes hs hidle hlen

theorem CoreState.KeyTaken.keyhash_eq (h : c₀.KeyTaken k c) (hs : c₀.streamsToKey) :
    c.keyhash = decide (64 < k.length) := by
  cases h with
  | plain key' n' form bytes =>
    have hkeylen := c.keylen.isLt
    have hshort : ¬64 < k.length := by rw [← bytes, c.keyBytes_length]; omega
    rw [form, decide_eq_false hshort]
    exact hs.2
  | hashed key' long stream =>
    obtain ⟨h', e', buf', f', j', form⟩ := stream.form
    rw [form, decide_eq_true long]

/-- R205: what the completion of HMAC_KEY_END makes of the key bytes. -/
theorem CoreState.KeyTaken.settledKey_toList (h : c₀.KeyTaken k c) (hs : c₀.streamsToKey) (hinv : c.Inv)
    (hj : c.job = .none) : c.settledKey.toList = paddedKey k := by
  rw [CoreState.settledKey_toList, h.keyhash_eq hs, paddedKey]
  cases h with
  | plain key' n' form bytes =>
    have hlen : k.length = c.keylen.val := by rw [← bytes, c.keyBytes_length]
    have hkeylen := c.keylen.isLt
    have hshort : k.length ≤ 64 := by omega
    rw [if_pos hshort, if_neg (by simpa using hshort), hinv.key_toList, bytes, hlen]
  | hashed key' long stream =>
    rw [if_neg (Nat.not_le.mpr long), if_pos (by simpa using long), stream.finish_eq_digest hj]

theorem CoreState.KeyTaken.mode_eq (h : c₀.KeyTaken k c) : c.mode = c₀.mode := by
  cases h with
  | plain key' n' form bytes => rw [form]
  | hashed key' long stream =>
    obtain ⟨h', e', buf', f', j', form⟩ := stream.form
    rw [form]

end

/-! ## From HMAC_INIT to the job of HMAC_KEY_END (R200 to R203) -/

/-- R256, R260: FINAL, HMAC_KEY_END or HMAC_FINAL that leaves no error was accepted, with no job and no error before. -/
theorem CoreState.cmdWrite_finishing_of_err {c : CoreState} {cmd : Command} (hs : startsSession cmd = false)
    (ha : cmd ≠ .abort) (herr : (c.cmdWrite (some cmd)).err = .none) :
    c.job = .none ∧ c.err = .none ∧ c.cmdWrite (some cmd) = c.runCommand cmd := by
  have hv := CoreState.cmdCheck_of_cmdWrite_err herr
  rcases (cmdCheck_accept_iff c cmd).mp hv with habort | ⟨hj, hstart | ⟨hclean, -⟩⟩
  · exact absurd habort ha
  · exact absurd (hs.symm.trans hstart) Bool.false_ne_true
  · exact ⟨hj, hclean, cmdWrite_of_accept hv⟩

/-- The KEYEND job of the key `k` is in flight. -/
structure CoreState.KeyIssued (k : List Byte) (c : CoreState) : Prop where
  job : c.job = .keyEnd
  mode : c.mode = .hmac
  keyhash : c.keyhash = decide (64 < k.length)
  key : c.settledKey.toList = paddedKey k

/-- R200 to R203, R205: HMAC_INIT, the events of the key phase and HMAC_KEY_END, when they leave no error. -/
theorem keyIssued_of_err {c : CoreState} {evs : List Event} (hevs : evs.all Event.isCommandFree = true)
    (herr : ((evs.foldl Event.onCore (c.cmdWrite (some .hmacInit))).cmdWrite (some .hmacKeyEnd)).err = .none) :
    CoreState.KeyIssued (deliveredBytes evs)
      ((evs.foldl Event.onCore (c.cmdWrite (some .hmacInit))).cmdWrite (some .hmacKeyEnd)) := by
  obtain ⟨hidle, hclean, hissue⟩ := CoreState.cmdWrite_finishing_of_err rfl (by decide) herr
  rw [hissue]
  have hinit := CoreState.cmdCheck_of_cmdWrite_err (err_of_foldl_onCore hevs hclean)
  have hj : c.job = .none := by simpa [startsSession] using (cmdCheck_accept_iff c .hmacInit).mp hinit
  rw [CoreState.cmdWrite_of_accept hinit] at hidle hclean ⊢
  have hs : (c.startSession .hmac .key).streamsToKey := ⟨rfl, rfl⟩
  have hstart : (c.startSession .hmac .key).KeyTaken [] (c.startSession .hmac .key) := .plain _ _ rfl rfl
  have htaken := foldl_onCore_invariant (fun he herr h => h.onCore hs hj he herr) hevs hstart hclean
  have hinv := foldl_onCore_invariant (P := fun _ c => c.Inv) (m := []) (fun he _ h => h.onCore he) hevs
    (CoreState.startSession_inv hj (.inr ⟨rfl, rfl⟩)) hclean
  exact ⟨rfl, htaken.mode_eq, htaken.keyhash_eq hs, htaken.settledKey_toList hs hinv hidle⟩

/-! ## From the inner pad to the job of HMAC_FINAL (R204 to R207, R211) -/

/-- Nothing but whole blocks: a core is at the start of a stream whose first blocks it has compressed. -/
theorem CoreState.absorbed_self {c : CoreState} {full : List Byte} (hfull : 64 ∣ full.length)
    (hmsglen : c.msglen = full.length) (hfill : c.fill = 0) (hj : c.job = .none)
    (hh : c.h = (blocksOf full).foldl compress iv) : c.Absorbed full c := by
  have htail : c.tail = [] := List.eq_nil_of_length_eq_zero (by rw [c.tail_length, hfill]; rfl)
  refine ⟨⟨c.h, c.eng, c.blockbuf, c.fill, c.job, by rw [← hmsglen]⟩, ⟨full, hfull, ?_, ?_⟩, .inl hj⟩
  · rw [htail, List.append_nil]
  · rw [pendingHash_idle hj, hh]

theorem xorBytes_key_length (key : Vector Byte 64) (b : Byte) : (xorBytes key.toList b).length = 64 := by
  rw [xorBytes, List.length_map, Vector.length_toList]

/-- R204, R206: after HMAC_KEY_END the core has absorbed the inner pad. -/
theorem CoreState.complete_keyEnd_absorbed {c : CoreState} (hj : c.job = .keyEnd) :
    c.complete.Absorbed (xorBytes c.settledKey.toList innerPadByte) c.complete := by
  obtain ⟨e', hc⟩ := complete_keyEnd_form hj
  have h64 := xorBytes_key_length c.settledKey innerPadByte
  refine absorbed_self (dvd_of_eq h64.symm) ?_ ?_ c.complete_job ?_ <;> rw [hc]
  · exact h64.symm
  · rw [blocksOf_of_length_eq h64, List.foldl_cons, List.foldl_nil, padBlock]

/-- R145, R252: while a job is in flight the events that leave no error only wait for its completion, after which they
feed the stream that begins there. -/
theorem foldl_onCore_of_busy {c : CoreState} (hj : c.job ≠ .none) (hs : ¬c.complete.streamsToKey) {full : List Byte}
    (hfull : c.complete.Absorbed full c.complete) {evs : List Event} (hevs : evs.all Event.isCommandFree = true)
    (herr : (evs.foldl Event.onCore c).err = .none) :
    evs.foldl Event.onCore c = c ∨
      c.complete.Absorbed (full ++ deliveredBytes evs) (evs.foldl Event.onCore c) := by
  induction evs with
  | nil => exact .inl rfl
  | cons e rest ih =>
    rw [List.all_cons, Bool.and_eq_true] at hevs
    obtain ⟨he, hrest⟩ := hevs
    rw [List.foldl_cons] at herr ⊢
    rcases e.onCore_cases he c with ⟨hbytes, hc | hc⟩ | ⟨-, hc⟩
    · rw [hc] at herr ⊢
      rw [deliveredBytes, List.flatMap_cons, hbytes]
      exact ih hrest herr
    · rw [hc] at herr ⊢
      rw [deliveredBytes, List.flatMap_cons, hbytes]
      exact .inr (hfull.foldl_onCore hs hrest herr)
    · have hstop := err_of_foldl_onCore hrest herr
      rw [hc] at hstop
      exact absurd ((dinCheck_accept_iff c _).mp (CoreState.dinCheck_of_dinWrite_err hstop)).1 hj

/-- The HFINAL job of the key `k` and the message `m` is in flight. -/
structure CoreState.CodeIssued (k m : List Byte) (c : CoreState) : Prop where
  job : c.job = .hFinal
  err : c.err = .none
  mode : c.mode = .hmac
  keyhash : c.keyhash = decide (64 < k.length)
  key : c.key.toList = paddedKey k
  inner : finish c.h c.tail c.msglen = digest (xorBytes (paddedKey k) innerPadByte ++ m)

/-- R204 to R207: the completion of HMAC_KEY_END, the events of the message phase and HMAC_FINAL, when they leave no
error. -/
theorem CoreState.KeyIssued.codeIssued_of_err {k : List Byte} {c : CoreState} (h : c.KeyIssued k) {evs : List Event}
    (hevs : evs.all Event.isCommandFree = true)
    (herr : ((evs.foldl Event.onCore c).cmdWrite (some .hmacFinal)).err = .none) :
    CoreState.CodeIssued k (deliveredBytes evs) ((evs.foldl Event.onCore c).cmdWrite (some .hmacFinal)) := by
  obtain ⟨hidle, hclean, hissue⟩ := CoreState.cmdWrite_finishing_of_err rfl (by decide) herr
  rw [hissue]
  have hbusy : c.job ≠ .none := by simp [h.job]
  obtain ⟨e', hc⟩ := complete_keyEnd_form h.job
  have hs : ¬c.complete.streamsToKey := by simp [hc, CoreState.streamsToKey]
  rcases foldl_onCore_of_busy hbusy hs (complete_keyEnd_absorbed h.job) hevs hclean with hwait | habs
  · rw [hwait] at hidle
    exact absurd hidle hbusy
  · have hinner := habs.finish_eq_digest hidle
    rw [h.key] at hinner
    obtain ⟨h', e'', buf', f', j', hform⟩ := habs.form
    rw [hc] at hform
    refine ⟨rfl, hclean, ?_, ?_, ?_, hinner⟩ <;> rw [hform]
    · exact h.mode
    · exact h.keyhash
    · exact h.key

/-! ## The result (R208, R209) -/

/-- R183: the digest of a message whose first block is compressed by itself. -/
theorem digest_block_append {blk : List Byte} (hblk : blk.length = 64) (tail : List Byte) :
    digest (blk ++ tail) = finish (compress iv (words blk)) tail (64 + tail.length) := by
  have hcut := finish_blocksOf_foldl (dvd_of_eq hblk.symm) iv tail (64 + tail.length)
  rw [blocksOf_of_length_eq hblk, List.foldl_cons, List.foldl_nil] at hcut
  rw [hcut, digest, List.length_append, hblk]

/-- R38: STATUS of an HMAC result. -/
theorem status_of_hmac_result {c : CoreState} (h : c.resultValid) (hm : c.mode = .hmac) (hf : c.fill = 0) :
    status c = if c.keyhash = true then 0x0000007A else 0x0000003A := by
  obtain ⟨hj, hp, herr⟩ := h
  have hbusy : c.busy = false := by simp [CoreState.busy, hj]
  have hdone : c.done = true := by simp [CoreState.done, hp]
  rw [status, hbusy, hdone, hm, hp, herr, hf]
  cases c.keyhash <;> rfl

/-- R208, R209: the result of an HMAC session, once its HFINAL job has completed. -/
theorem CoreState.CodeIssued.result {k m : List Byte} {c : CoreState} (h : c.CodeIssued k m) :
    c.complete.h = hmac k m ∧
      status c.complete = (if k.length ≤ 64 then 0x0000003A else 0x0000007A) ∧ c.complete.resultValid := by
  obtain ⟨e', hc⟩ := complete_hFinal_form h.job
  have hvalid : c.complete.resultValid := by
    rw [hc]
    exact ⟨rfl, rfl, h.err⟩
  refine ⟨?_, ?_, hvalid⟩
  · rw [hmac, ← h.key, digest_block_append (xorBytes_key_length c.key outerPadByte), h.key, ← h.inner, hc, padBlock,
      h.key, ser_length]
  · rw [status_of_hmac_result hvalid (by rw [hc]; exact h.mode) (by rw [hc])]
    have hkeyhash : c.complete.keyhash = decide (64 < k.length) := by
      rw [hc]
      exact h.keyhash
    by_cases hk : k.length ≤ 64 <;> simp [hkeyhash, hk]

/-- R299: whether the events after a finishing command wait or complete its job, one more completion ends it. -/
theorem complete_foldl_onCore_of_finishing {c : CoreState} (hj : c.job ≠ .none) (hr : c.complete.phase = .result)
    {evs : List Event} (hevs : evs.all Event.isCommandFree = true) (herr : (evs.foldl Event.onCore c).err = .none) :
    (evs.foldl Event.onCore c).complete = c.complete := by
  rcases foldl_onCore_of_finishing hj hr hevs (.inl rfl) herr with hend | hend <;> rw [hend]
  exact CoreState.complete_idle _ c.complete_job

/-- Settles O58: the key phase issues the padded key, the message phase the inner digest, and HMAC_FINAL's completion
finishes the outer one. -/
theorem hmacSessionGivesTheCode : Obligations.HmacSessionGivesTheCode := by
  unfold Obligations.HmacSessionGivesTheCode
  intro s t keyEvs msgEvs polls hkeyEvs hmsgEvs hpolls hev hrun herr
  have hcore : t.core = (polls.foldl Event.onCore ((msgEvs.foldl Event.onCore
      ((keyEvs.foldl Event.onCore (s.core.cmdWrite (some .hmacInit))).cmdWrite (some .hmacKeyEnd))).cmdWrite
        (some .hmacFinal))).complete := by
    rw [run_core rfl hrun, hev]
    simp only [List.foldl_append, List.foldl_cons, List.foldl_nil, Event.onCore_commandEvent]
    rfl
  rw [hcore, CoreState.complete_err] at herr
  have hfinal := err_of_foldl_onCore hpolls herr
  obtain ⟨-, hclean, -⟩ := CoreState.cmdWrite_finishing_of_err rfl (by decide) hfinal
  have hkey := keyIssued_of_err hkeyEvs (err_of_foldl_onCore hmsgEvs hclean)
  have hcode := hkey.codeIssued_of_err hmsgEvs hfinal
  obtain ⟨-, -, -, hphase, -⟩ := hcode.result
  rw [hcore, complete_foldl_onCore_of_finishing (by simp [hcode.job]) hphase hpolls herr]
  exact hcode.result

end Sys2Proof.Machine
end

section
/-! PROOFS. spec/44_register_access.md: the fixed reads, the reads of H, the ignored writes, and WR_CMD of a command's
word. -/

namespace Sys2Proof.Machine

/-! ## Reads (R232, R234, R235) -/

/-- Settles O16: ID reads a constant, and the write-only and reserved slots share the read of 0. -/
theorem fixedReads : Obligations.FixedReads := by
  unfold Obligations.FixedReads
  refine ⟨rfl, rfl, rfl, rfl, decodeRead_rsvdA 0, decodeRead_rsvdA 1, decodeRead_rsvdB 0, decodeRead_rsvdB 1,
    decodeRead_rsvdB 2, decodeRead_rsvdB 3, fun s a b => ?_⟩
  exact ⟨rfl, rfl, rfl, rfl, rfl, rfl⟩

theorem exec_hashRead_of_mem {i : Instr} (hi : i ∈ ([.rdH0, .rdH1, .rdH2, .rdH3, .rdH4] : List Instr)) :
    ∃ word, ∀ s, exec i s = .next (s.readHash word) := by
  simp only [List.mem_cons, List.not_mem_nil, or_false] at hi
  rcases hi with rfl | rfl | rfl | rfl | rfl
  · exact ⟨Hash.h0, fun _ => rfl⟩
  · exact ⟨Hash.h1, fun _ => rfl⟩
  · exact ⟨Hash.h2, fun _ => rfl⟩
  · exact ⟨Hash.h3, fun _ => rfl⟩
  · exact ⟨Hash.h4, fun _ => rfl⟩

/-- Settles O18: with no job in flight the read of any word of H is that word. -/
theorem hashReadsWhenIdle : Obligations.HashReadsWhenIdle := by
  unfold Obligations.HashReadsWhenIdle
  intro s hj
  have hread (word : Hash → Word) :
      Host.Outcome.next (s.readHash word) =
        (.next { s with rdata := word s.core.h } : Host.Outcome State Fault Refusal) :=
    congrArg Host.Outcome.next (s.readHash_idle word hj)
  exact ⟨hread Hash.h0, hread Hash.h1, hread Hash.h2, hread Hash.h3, hread Hash.h4⟩

/-- Settles O19: while a job is in flight the value read does not depend on which word of H is asked for. -/
theorem hashReadsWhileBusyAreDraws : Obligations.HashReadsWhileBusyAreDraws := by
  unfold Obligations.HashReadsWhileBusyAreDraws
  intro s hj i hi
  obtain ⟨word, hread⟩ := exec_hashRead_of_mem hi
  rw [hread, s.readHash_busy word hj, State.withRdata]

/-! ## Ignored writes (R236) -/

/-- Settles O22: the nine instructions are the identity, and every slot but CMD and the two data slots is one of theirs. -/
theorem ignoredWrites : Obligations.IgnoredWrites := by
  unfold Obligations.IgnoredWrites
  intro s w a b
  exact ⟨rfl, rfl, rfl, rfl, rfl, rfl, rfl, rfl, rfl, fun idx h1 h3 h4 => exec_write_ignored h1 h3 h4 w s⟩

/-! ## WR_CMD of a command's word (R178, R237, R238) -/

theorem exec_wrCmd_word (c : Command) (s : State) : exec (.wrCmd c.word) s = exec c.instr s := by
  rw [exec_wrCmd, decodeCmd_word, exec_command]

theorem exec_abort (s : State) : exec .abort s = .next (resetStep s) := rfl

/-- Settles O23: 0xF and 0x1 are the words of ABORT, which resets, and of INIT, which starts a session when no job is in
flight. -/
theorem wrCmdExecutesItsWord : Obligations.WrCmdExecutesItsWord := by
  unfold Obligations.WrCmdExecutesItsWord
  refine ⟨exec_wrCmd_word, fun s => ?abort, fun s hj => ?init⟩
  case abort => exact ⟨_, (exec_wrCmd_word .abort s).trans (exec_abort s), status_reset⟩
  case init =>
    have hinit := exec_startsSession (cmd := .init) hj rfl
    exact ⟨_, (exec_wrCmd_word .init s).trans hinit, rfl, rfl, rfl, rfl⟩

end Sys2Proof.Machine
end

section
/-! PROOFS. spec/60_exceptions.md: what each check of a write records, the order of the checks on a CMD write, and which
steps clear an error or move the session. -/

namespace Sys2Proof.Machine

/-! ## Reserved words and stopped writes (R107, R252, R253, R256) -/

/-- R106, R107: the reserved words are the ones beside the six. -/
theorem decodeCmd_eq_none_iff (w : Word) :
    decodeCmd w = none ↔
      w ∉ ([0x00000001, 0x00000002, 0x00000003, 0x00000004, 0x00000005, 0x0000000F] : List Word) := by
  rw [decodeCmd, List.find?_eq_none]
  simp [Command.word, eq_comm (b := w)]

theorem exec_wrCmd_reserved {w : Word} {s : State} (hw : decodeCmd w = none) (hj : s.core.job = .none) :
    exec (.wrCmd w) s =
      .next { s with core := { s.core with err := if s.core.err = .none then .badCmd else s.core.err } } := by
  rw [exec_wrCmd, hw, State.mapCore, CoreState.cmdWrite_of_reject (cmdCheck_reserved s.core hj)]

theorem exec_wrCmd_busy {w : Word} {s : State} (hw : w ≠ 0x0000000F) (hj : s.core.job ≠ .none) :
    exec (.wrCmd w) s =
      .next { s with core := { s.core with err := if s.core.err = .none then .busy else s.core.err } } := by
  have habort : decodeCmd w ≠ some .abort := mt (decodeCmd_eq_some_iff w .abort).mp hw
  rw [exec_wrCmd, State.mapCore, CoreState.cmdWrite_busy hj habort]

theorem exec_dataWrite_busy {i : Instr} {bs : List Byte} (hd : isDataWrite i bs) {s : State}
    (hj : s.core.job ≠ .none) :
    exec i s =
      .next { s with core := { s.core with err := if s.core.err = .none then .busy else s.core.err } } := by
  rw [exec_dataWrite hd, State.mapCore, CoreState.dinWrite_busy hj]

theorem exec_dataWrite_ignored {i : Instr} {bs : List Byte} (hd : isDataWrite i bs) {s : State}
    (hj : s.core.job = .none) (herr : s.core.err ≠ .none) : exec i s = .next s := by
  have hv := dinCheck_idle s.core bs.length hj
  rw [if_pos herr] at hv
  rw [exec_dataWrite hd, State.mapCore, CoreState.dinWrite_of_ignore hv]

theorem isDataWrite_wrDinWord (w : Word) : isDataWrite (.wrDinWord w) (dinWordBytes w) := ⟨w, .inl ⟨rfl, rfl⟩⟩

theorem isDataWrite_wrDinByte (w : Word) : isDataWrite (.wrDinByte w) (dinByteBytes w) := ⟨w, .inr ⟨rfl, rfl⟩⟩

/-- Settles O24: with no job in flight the first check that a reserved word fails is the one for reserved words. -/
theorem reservedWordRaisesBadCmd : Obligations.ReservedWordRaisesBadCmd := by
  unfold Obligations.ReservedWordRaisesBadCmd
  intro w s hw hj
  exact exec_wrCmd_reserved ((decodeCmd_eq_none_iff w).mpr hw) hj

/-- Settles O32: the checks ignore the data writes and the finishing commands, and BADCMD does not replace an error. -/
theorem errorStopsTheSession : Obligations.ErrorStopsTheSession := by
  unfold Obligations.ErrorStopsTheSession
  intro s hj herr
  refine ⟨fun w => exec_dataWrite_ignored (isDataWrite_wrDinWord w) hj herr,
    fun w => exec_dataWrite_ignored (isDataWrite_wrDinByte w) hj herr, fun w hw => ?reserved,
    exec_finishing_ignored (cmd := .final) hj herr rfl (by decide),
    exec_finishing_ignored (cmd := .hmacKeyEnd) hj herr rfl (by decide),
    exec_finishing_ignored (cmd := .hmacFinal) hj herr rfl (by decide)⟩
  case reserved => rw [exec_wrCmd_reserved hw hj, if_neg herr]

/-- Settles O29: the check for a job in flight is the first one of every write but ABORT's. -/
theorem writesWhileBusyRecordBusy : Obligations.WritesWhileBusyRecordBusy := by
  unfold Obligations.WritesWhileBusyRecordBusy
  intro s hj t
  refine ⟨fun w hw => exec_wrCmd_busy hw hj, fun w => exec_dataWrite_busy (isDataWrite_wrDinWord w) hj,
    fun w => exec_dataWrite_busy (isDataWrite_wrDinByte w) hj,
    exec_command_busy (cmd := .init) hj (by decide), exec_command_busy (cmd := .final) hj (by decide),
    exec_command_busy (cmd := .hmacInit) hj (by decide), exec_command_busy (cmd := .hmacKeyEnd) hj (by decide),
    exec_command_busy (cmd := .hmacFinal) hj (by decide),
    fun idx w h1 h3 h4 => exec_write_ignored h1 h3 h4 w s, fun idx => ?read⟩
  case read =>
    obtain ⟨u, hu, hcore, -⟩ := readsHaveNoSideEffect idx s
    exact ⟨u, hu, hcore⟩

/-! ## The order of the checks on a CMD write (R260) -/

/-- R260, steps 5 to 7. -/
theorem exec_wrCmd_finishing {cmd : Command} {s : State} (hj : s.core.job = .none) (hs : startsSession cmd = false)
    (ha : cmd ≠ .abort) :
    exec (.wrCmd cmd.word) s =
      if s.core.err ≠ .none then .next s
      else if cmdAllowed cmd s.core.mode s.core.phase = true then .next { s with core := s.core.runCommand cmd }
      else .next { s with core := { s.core with err := .seq } } := by
  rw [exec_wrCmd_word]
  split_ifs with herr hm
  · exact exec_finishing_ignored hj herr hs ha
  · exact exec_command_accepted hj (not_not.mp herr) hm
  · exact exec_finishing_seq hj (not_not.mp herr) hs ha hm

/-- Settles O30: with no job in flight a defined word is its command, and FINAL, HMAC_KEY_END and HMAC_FINAL pass the
same checks. -/
theorem commandCheckOrder : Obligations.CommandCheckOrder := by
  unfold Obligations.CommandCheckOrder
  intro w s
  by_cases habort : w = 0x0000000F
  · rw [if_pos habort, habort]
    exact exec_wrCmd_word .abort s
  rw [if_neg habort]
  by_cases hj : s.core.job = .none
  · rw [if_neg (not_not.mpr hj)]
    by_cases hw : w ∈ ([0x00000001, 0x00000002, 0x00000003, 0x00000004, 0x00000005] : List Word)
    · rw [if_neg (not_not.mpr hw)]
      simp only [List.mem_cons, List.not_mem_nil, or_false] at hw
      rcases hw with rfl | rfl | rfl | rfl | rfl
      · exact exec_wrCmd_word .init s
      · refine (exec_wrCmd_finishing (cmd := .final) hj rfl (by decide)).trans ?_
        simp [cmdAllowed, CoreState.runCommand, CoreState.startJob]
      · exact exec_wrCmd_word .hmacInit s
      · refine (exec_wrCmd_finishing (cmd := .hmacKeyEnd) hj rfl (by decide)).trans ?_
        simp [cmdAllowed, CoreState.runCommand, CoreState.startJob]
      · refine (exec_wrCmd_finishing (cmd := .hmacFinal) hj rfl (by decide)).trans ?_
        simp [cmdAllowed, CoreState.runCommand, CoreState.startJob]
    · rw [if_pos hw]
      have hreserved : decodeCmd w = none := (decodeCmd_eq_none_iff w).mpr (by simp_all)
      exact exec_wrCmd_reserved hreserved hj
  · rw [if_pos hj]
    exact exec_wrCmd_busy habort hj

/-! ## What clears an error (R251, R257, R262) -/

/-- R251: with an error recorded, a write that is not accepted changes nothing. -/
theorem CoreState.guarded_cases_of_err {c : CoreState} (herr : c.err ≠ .none) (v : Verdict)
    (effect : CoreState → CoreState) : (v = .accept ∧ c.guarded v effect = effect c) ∨ c.guarded v effect = c := by
  cases v with
  | accept => exact .inl ⟨rfl, rfl⟩
  | reject code => exact .inr (c.raise_some code herr)
  | ignore => exact .inr rfl

theorem CoreState.dinWrite_of_err {c : CoreState} (herr : c.err ≠ .none) (bs : List Byte) : c.dinWrite bs = c := by
  rcases guarded_cases_of_err herr (dinCheck c bs.length) (fun c => c.pushBytes bs) with ⟨hv, -⟩ | hc
  · obtain ⟨-, hnone, -, -⟩ := (dinCheck_accept_iff c bs.length).mp hv
    exact absurd hnone herr
  · exact hc

/-- R257: a CMD write keeps a recorded error, or is accepted as INIT, HMAC_INIT or ABORT and clears it. -/
theorem CoreState.cmdWrite_err {c : CoreState} (herr : c.err ≠ .none) (cmd : Option Command) :
    (c.cmdWrite cmd).err = c.err ∨
      ((c.cmdWrite cmd).err = .none ∧ (cmd = some .init ∨ cmd = some .hmacInit ∨ cmd = some .abort)) := by
  rcases guarded_cases_of_err herr (cmdCheck c cmd) _ with ⟨-, hc⟩ | hc <;> rw [CoreState.cmdWrite, hc]
  · match cmd with
    | none => exact .inl rfl
    | some .init => exact .inr ⟨rfl, .inl rfl⟩
    | some .hmacInit => exact .inr ⟨rfl, .inr (.inl rfl)⟩
    | some .abort => exact .inr ⟨rfl, .inr (.inr rfl)⟩
    | some .final => exact .inl rfl
    | some .hmacKeyEnd => exact .inl rfl
    | some .hmacFinal => exact .inl rfl
  · exact .inl rfl

/-- R257: what an event of the schedule can do to a recorded error. -/
theorem Event.onCore_err {c : CoreState} (herr : c.err ≠ .none) (e : Event) :
    (e.onCore c).err = c.err ∨
      ((e.onCore c).err = .none ∧
        (e = .reset ∨ e = commandEvent .init ∨ e = commandEvent .hmacInit ∨ e = commandEvent .abort)) := by
  match e with
  | .reset => exact .inr ⟨rfl, .inl rfl⟩
  | .engine => exact .inl c.complete_err
  | .host (.read idx) => exact .inl rfl
  | .host (.write idx w) =>
    simp only [Event.onCore]
    split_ifs with hcmd
    · subst hcmd
      simpa only [decodeCmd_eq_some_iff, commandEvent, Event.host.injEq, Txn.write.injEq, true_and, reduceCtorEq,
        false_or] using c.cmdWrite_err herr (decodeCmd w)
    · exact .inl (by rw [c.dinWrite_of_err herr])
    · exact .inl (by rw [c.dinWrite_of_err herr])
    · exact .inl rfl

/-- Settles O33: a completion keeps the error, and so does every event but the four. -/
theorem errorIsSticky : Obligations.ErrorIsSticky := by
  unfold Obligations.ErrorIsSticky
  intro s t hst herr
  match hev : s.events with
  | [] =>
    rw [step_idle hev] at hst
    cases hst
    exact .inl s.core.complete_err
  | e :: rest =>
    rw [step_core hev hst]
    rcases e.onCore_err herr with hkeep | ⟨hclear, he⟩
    · exact .inl hkeep
    · exact .inr ⟨hclear, rest, by simpa only [List.cons.injEq, and_true] using he⟩

/-! ## What moves the session (R254) -/

/-- R178, R179, R200, R203, R207, R238: the session state after an accepted command. -/
theorem CoreState.runCommand_session (c : CoreState) (cmd : Command) :
    ((c.runCommand cmd).mode = c.mode ∧ (c.runCommand cmd).phase = c.phase) ∨
      (cmd = .init ∧ (c.runCommand cmd).mode = .hash ∧ (c.runCommand cmd).phase = .msg) ∨
      (cmd = .hmacInit ∧ (c.runCommand cmd).mode = .hmac ∧ (c.runCommand cmd).phase = .key) ∨
      (cmd = .abort ∧ (c.runCommand cmd).mode = .none ∧ (c.runCommand cmd).phase = .none) := by
  cases cmd with
  | init => exact .inr (.inl ⟨rfl, rfl, rfl⟩)
  | hmacInit => exact .inr (.inr (.inl ⟨rfl, rfl, rfl⟩))
  | abort => exact .inr (.inr (.inr ⟨rfl, rfl, rfl⟩))
  | final => exact .inl ⟨rfl, rfl⟩
  | hmacKeyEnd => exact .inl ⟨rfl, rfl⟩
  | hmacFinal => exact .inl ⟨rfl, rfl⟩

/-- Settles O35: a write that is not accepted changes at most the error, and pushed bytes keep mode and phase. -/
theorem onlySessionCommandsMoveTheSession : Obligations.OnlySessionCommandsMoveTheSession := by
  unfold Obligations.OnlySessionCommandsMoveTheSession
  intro i s t hwf he
  rcases exec_core_cases_of_wf hwf he with hc | hc | ⟨cmd, rfl, hc⟩ | ⟨bs, -, hc⟩ <;> rw [hc]
  · exact .inl ⟨rfl, rfl⟩
  · obtain ⟨e, hw⟩ | ⟨_, ⟨⟩, -⟩ := s.core.cmdWrite_cases none
    exact .inl (by simp [hw])
  · rcases s.core.cmdWrite_cases (some cmd) with ⟨e, hw⟩ | ⟨_, ⟨⟩, -, hw⟩ <;> rw [hw]
    · exact .inl ⟨rfl, rfl⟩
    · rcases s.core.runCommand_session cmd with hkeep | ⟨rfl, hinit⟩ | ⟨rfl, hhmac⟩ | ⟨rfl, habort⟩
      · exact .inl hkeep
      · exact .inr (.inl ⟨rfl, hinit⟩)
      · exact .inr (.inr (.inl ⟨rfl, hhmac⟩))
      · exact .inr (.inr (.inr ⟨rfl, habort⟩))
  · rcases s.core.dinWrite_cases bs with ⟨e, hw⟩ | ⟨-, hw⟩ <;> rw [hw]
    · exact .inl ⟨rfl, rfl⟩
    · obtain ⟨-, hmode, hphase, -⟩ := CoreState.pushBytes_frame bs s.core
      exact .inl ⟨hmode, hphase⟩

end Sys2Proof.Machine
end

section
/-! PROOFS. spec/70_reset_and_hazards.md: ABORT and the reset input, the core right after reset, and the result that stays
readable. -/

namespace Sys2Proof.Machine

/-! ## The result stays (R299) -/

/-- R54, R254: no job runs in RESULT. -/
theorem CoreState.Inv.job_eq_none_of_result {c : CoreState} (h : c.Inv) (hp : c.phase = .result) : c.job = .none := by
  have hfits := h.jobFits
  cases hj : c.job <;> simp_all [CoreState.jobFits]

/-- R254, R260: an accepted command is allowed in the session state it finds. -/
theorem cmdAllowed_of_accept {c : CoreState} {cmd : Command} (hv : cmdCheck c (some cmd) = .accept) :
    cmdAllowed cmd c.mode c.phase = true := by
  rcases (cmdCheck_accept_iff c cmd).mp hv with rfl | ⟨-, hstart | ⟨-, hallowed⟩⟩
  · rfl
  · cases cmd <;> simp_all [startsSession, cmdAllowed]
  · exact hallowed

/-- R254 -/
theorem cmdAllowed_result_iff (cmd : Command) (m : Mode) :
    cmdAllowed cmd m .result = true ↔ cmd = .init ∨ cmd = .hmacInit ∨ cmd = .abort := by
  cases cmd <;> simp [cmdAllowed]

/-- R299: in RESULT a CMD write changes at most the error, or is one of the three commands. -/
theorem CoreState.cmdWrite_result {c : CoreState} (hp : c.phase = .result) (cmd : Option Command) :
    (∃ x, c.cmdWrite cmd = { c with err := x }) ∨
      cmd = some .init ∨ cmd = some .hmacInit ∨ cmd = some .abort := by
  rcases c.cmdWrite_cases cmd with hkeep | ⟨cm, rfl, hv, -⟩
  · exact .inl hkeep
  · have hallowed := cmdAllowed_of_accept hv
    rw [hp, cmdAllowed_result_iff] at hallowed
    exact .inr (by simpa only [Option.some.injEq] using hallowed)

/-- R299: in RESULT no data write is accepted. -/
theorem CoreState.dinWrite_result {c : CoreState} (hp : c.phase = .result) (bs : List Byte) :
    ∃ x, c.dinWrite bs = { c with err := x } := by
  refine (c.dinWrite_cases bs).resolve_right fun ⟨hv, _⟩ => ?_
  obtain ⟨-, -, hdata, -⟩ := (dinCheck_accept_iff c bs.length).mp hv
  simp [hp] at hdata

/-- R299: what an event of the schedule can do to a result. -/
theorem Event.onCore_result {c : CoreState} (hj : c.job = .none) (hp : c.phase = .result) (e : Event) :
    (∃ x, e.onCore c = { c with err := x }) ∨
      e = .reset ∨ e = commandEvent .init ∨ e = commandEvent .hmacInit ∨ e = commandEvent .abort := by
  match e with
  | .reset => exact .inr (.inl rfl)
  | .engine => exact .inl ⟨c.err, c.complete_idle hj⟩
  | .host (.read idx) => exact .inl ⟨c.err, rfl⟩
  | .host (.write idx w) =>
    simp only [Event.onCore]
    split_ifs with hcmd
    · subst hcmd
      simpa only [decodeCmd_eq_some_iff, commandEvent, Event.host.injEq, Txn.write.injEq, true_and, reduceCtorEq,
        false_or] using CoreState.cmdWrite_result hp (decodeCmd w)
    · exact .inl (CoreState.dinWrite_result hp _)
    · exact .inl (CoreState.dinWrite_result hp _)
    · exact .inl ⟨c.err, rfl⟩

/-- Settles O37: the invariant shuts out a job, so a step but for the four changes at most the error. -/
theorem resultStaysReadable : Obligations.ResultStaysReadable := by
  unfold Obligations.ResultStaysReadable
  intro s t hinv hp hst hev
  have hj := hinv.job_eq_none_of_result hp
  have hcore : ∃ x, t.core = { s.core with err := x } := by
    match hs : s.events with
    | [] =>
      rw [step_idle hs] at hst
      cases hst
      exact ⟨s.core.err, s.core.complete_idle hj⟩
    | e :: rest =>
      rw [step_core hs hst]
      refine (e.onCore_result hj hp).resolve_right ?_
      simpa only [hs, ne_eq, List.cons.injEq, and_true, not_or] using hev rest
  obtain ⟨x, hx⟩ := hcore
  rw [hx]
  exact ⟨rfl, hp, rfl⟩

/-! ## Right after reset (R292) -/

/-- R254, R261: with no job and no error, a data write outside the phases that take data. -/
theorem exec_dataWrite_seq {i : Instr} {bs : List Byte} (hd : isDataWrite i bs) {s : State} (hj : s.core.job = .none)
    (herr : s.core.err = .none) (hp : ¬(s.core.phase = .key ∨ s.core.phase = .msg)) :
    exec i s = .next { s with core := { s.core with err := .seq } } := by
  have hv := dinCheck_idle s.core bs.length hj
  rw [if_neg (not_not.mpr herr), if_pos hp] at hv
  rw [exec_dataWrite hd, State.mapCore, CoreState.dinWrite_of_reject hv, if_pos herr]

/-- Settles O15: the reset state is idle, with no error and in no session, so the rules for such a state apply to it. -/
theorem afterResetOnlySessionsStart : Obligations.AfterResetOnlySessionsStart := by
  unfold Obligations.AfterResetOnlySessionsStart
  intro seq zero
  obtain ⟨h0, h1, h2, h3, h4⟩ := hashReadsWhenIdle State.reset rfl
  obtain ⟨u, hinit, -, hu⟩ := (initStartsAHashSession.2 State.reset).2 rfl
  obtain ⟨v, hhmacInit, -, hv⟩ := (hmacInitStartsTheKeyPhase.2 State.reset).2 rfl
  have hnoData : ¬(State.reset.core.phase = .key ∨ State.reset.core.phase = .msg) := by decide
  exact ⟨fun w => exec_dataWrite_seq (isDataWrite_wrDinWord w) rfl rfl hnoData,
    fun w => exec_dataWrite_seq (isDataWrite_wrDinByte w) rfl rfl hnoData,
    exec_finishing_seq (cmd := .final) rfl rfl rfl (by decide) (by decide),
    exec_finishing_seq (cmd := .hmacKeyEnd) rfl rfl rfl (by decide) (by decide),
    exec_finishing_seq (cmd := .hmacFinal) rfl rfl rfl (by decide) (by decide),
    h0, h1, h2, h3, h4, ⟨u, hinit, hu⟩, ⟨v, hhmacInit, hv⟩,
    ⟨resetStep State.reset, exec_abort State.reset, status_reset⟩⟩

/-! ## ABORT and the reset input (R238, R291) -/

/-- Settles O28: both are the same update of the core, to the values of R59. -/
theorem abortIsReset : Obligations.AbortIsReset := by
  unfold Obligations.AbortIsReset
  refine ⟨decodeCmdWrite_word .abort, fun s => ⟨resetStep s, resetStep s, exec_abort s, step_reset rfl, rfl, ?_⟩⟩
  exact ⟨rfl, rfl, rfl, rfl, rfl, rfl, rfl, rfl, rfl, rfl, rfl, rfl, fun i hi => Vector.getElem_replicate hi,
    status_reset⟩

end Sys2Proof.Machine
end
